-- ==== Sys2Proof/Word.lean ====
section
/-! DEFINITION. The words the block moves: bytes, 16-bit values, binary32 bit patterns, 7-bit device addresses
(`00_scope.md` R11). Byte order and field helpers stand in Machine/Bytes.lean. -/

namespace Sys2Proof

/-- `u8` of `00_scope.md` R11. -/
abbrev Byte := BitVec 8

/-- `u16` of `00_scope.md` R11. -/
abbrev U16 := BitVec 16

/-- The bit pattern of an IEEE-754 binary32 value, `f32` of `00_scope.md` R11. -/
abbrev F32 := BitVec 32

/-- A 7-bit bus address (`20_memory.md` R54). -/
abbrev Addr7 := BitVec 7

end Sys2Proof
end

