-- ==== Sys2Proof/Machine/Bytes.lean ====
section
/-! DEFINITION. Byte order, in one place: everything in this hardware is little-endian (`20_memory.md` R57,
`30_encoding.md` R80). -/

namespace Sys2Proof

/-- `lo8(v)` of `00_scope.md` R11. -/
def lo8 (v : U16) : Byte := v.extractLsb' 0 8

/-- `hi8(v)` of `00_scope.md` R11. -/
def hi8 (v : U16) : Byte := v.extractLsb' 8 8

/-- `le16(b0, b1) = b0 + 256 * b1` of `00_scope.md` R11: `b0` is the byte received first. -/
def le16 (b0 b1 : Byte) : U16 := b1 ++ b0

/-- `ENCODE_U16_LE` of `40_codec.md` R122. -/
def encodeU16Le (v : U16) : List Byte := [lo8 v, hi8 v]

/-- The four bytes of a binary32 bit pattern, least significant first (`30_encoding.md` R81, format `F`). -/
def encodeF32Le (x : F32) : List Byte :=
  [x.extractLsb' 0 8, x.extractLsb' 8 8, x.extractLsb' 16 8, x.extractLsb' 24 8]

/-- The bit pattern of four bytes, least significant first (`30_encoding.md` R81, format `F`). -/
def le32 (b0 b1 b2 b3 : Byte) : F32 := b3 ++ (b2 ++ (b1 ++ b0))

end Sys2Proof
end

