-- ==== Sys2Proof/Syntax.lean ====
section
/-! DEFINITION. The operation set: one constructor per row of spec/opcode_table.json, in the table's order
(`30_encoding.md` R82). Operands are what the host port carries (R81): a mode operand is the raw byte, a binary32
operand its bit pattern. -/

namespace Sys2Proof

/-- The 36 operations of `30_encoding.md` R82: nineteen protocol operations, then seventeen codec operations. -/
inductive Instr where
  /-- `WRITE_COMMAND`: `bytes[0]` is the command code, the rest are data bytes (`41_bus_primitives.md` R162). -/
  | writeCommand (bytes : List Byte)
  /-- `READ_REGISTER`: register address, number of bytes (`41_bus_primitives.md` R165). -/
  | readRegister (reg : Byte) (n : Byte)
  /-- `SET_OPERATION_MODE`: the mode byte (`42_accessors.md` R180). -/
  | setOperationMode (mode : Byte)
  /-- `GET_PART_ID` (R182). -/
  | getPartId
  /-- `GET_FIRMWARE_VERSION` (R184). -/
  | getFirmwareVersion
  /-- `CLEAR_COMMAND` (R186). -/
  | clearCommand
  /-- `GET_ECO2` (R188). -/
  | getEco2
  /-- `GET_TVOC` (R190). -/
  | getTvoc
  /-- `GET_AIRQUALITY_INDEX` (R192). -/
  | getAirqualityIndex
  /-- `GET_ETOH` (R194). -/
  | getEtoh
  /-- `GET_RAW_RESISTANCE` (R196). -/
  | getRawResistance
  /-- `GET_STATUS` (R198). -/
  | getStatus
  /-- `GET_GROUP_DATA` (R199). -/
  | getGroupData
  /-- `SET_TEMP_RH_COMP`: degrees Celsius as binary32, relative humidity as an unscaled percent (R203). -/
  | setTempRhComp (celsius : F32) (rhPercent : U16)
  /-- `GET_TEMP_RH_COMP` (R205). -/
  | getTempRhComp
  /-- `CONFIG_INTERRUPT_PIN`: the configuration byte, opaque to the block (R207). -/
  | configInterruptPin (config : Byte)
  /-- `INITIALIZE` (`43_initialize.md` R230). -/
  | initializeSensor
  /-- `GET_MEASUREMENTS` (`42_accessors.md` R210). -/
  | getMeasurements
  /-- `RELEASE` (`43_initialize.md` R245). -/
  | release
  /-- `DECODE_STATUS` (`40_codec.md` R126). -/
  | decodeStatus (b : Byte)
  /-- `DECODE_AQI` (R127). -/
  | decodeAqi (b : Byte)
  /-- `DECODE_U16_LE`: the byte received first, then the second (R128). -/
  | decodeU16Le (b0 : Byte) (b1 : Byte)
  /-- `ENCODE_TEMP_COMP`: degrees Celsius as binary32 (R129). -/
  | encodeTempComp (celsius : F32)
  /-- `DECODE_TEMP_COMP` (R130). -/
  | decodeTempComp (raw : U16)
  /-- `DECODE_RAW_RESISTANCE` (R132). -/
  | decodeRawResistance (raw : U16)
  /-- `ICFG_BUILDER` (R134). -/
  | icfgBuilder
  /-- `ICFG_ACTIVE_HIGH` (R135). -/
  | icfgActiveHigh (v : Byte)
  /-- `ICFG_ACTIVE_LOW` (R136). -/
  | icfgActiveLow (v : Byte)
  /-- `ICFG_PUSH_PULL` (R137). -/
  | icfgPushPull (v : Byte)
  /-- `ICFG_OPEN_DRAIN` (R138). -/
  | icfgOpenDrain (v : Byte)
  /-- `ICFG_ON_NEW_DATA` (R139). -/
  | icfgOnNewData (v : Byte)
  /-- `ICFG_OFF_NEW_DATA` (R140). -/
  | icfgOffNewData (v : Byte)
  /-- `ICFG_ON_NEW_GROUP_DATA` (R141). -/
  | icfgOnNewGroupData (v : Byte)
  /-- `ICFG_OFF_NEW_GROUP_DATA` (R142). -/
  | icfgOffNewGroupData (v : Byte)
  /-- `ICFG_ENABLE_INTERRUPT` (R143). -/
  | icfgEnableInterrupt (v : Byte)
  /-- `ICFG_DISABLE_INTERRUPT` (R144). -/
  | icfgDisableInterrupt (v : Byte)
  deriving DecidableEq, Repr

end Sys2Proof
end

