-- ==== Sys2Proof/WellFormed.lean ====
section
/-! DEFINITION. Which operations the host port can carry at all. The only operand without a fixed width is the byte
list of `WRITE_COMMAND`, whose count `LEN` is one byte (`30_encoding.md` R81, R101). Whether an operand lies in the
operation's domain (R85) is a different question, answered by a refusal at run time: `Machine.operandOk`. -/

namespace Sys2Proof

/-- The operation can be written as a byte string of `30_encoding.md` R81: `LEN` of format `V` fits in one byte. -/
def Instr.wellFormed : Instr → Bool
  | .writeCommand bytes => decide (bytes.length ≤ 255)
  | .readRegister _ _ | .setOperationMode _ | .getPartId | .getFirmwareVersion | .clearCommand | .getEco2 | .getTvoc
  | .getAirqualityIndex | .getEtoh | .getRawResistance | .getStatus | .getGroupData | .setTempRhComp _ _
  | .getTempRhComp | .configInterruptPin _ | .initializeSensor | .getMeasurements | .release => true
  | .decodeStatus _ | .decodeAqi _ | .decodeU16Le _ _ | .encodeTempComp _ | .decodeTempComp _
  | .decodeRawResistance _ | .icfgBuilder | .icfgActiveHigh _ | .icfgActiveLow _ | .icfgPushPull _ | .icfgOpenDrain _
  | .icfgOnNewData _ | .icfgOffNewData _ | .icfgOnNewGroupData _ | .icfgOffNewGroupData _ | .icfgEnableInterrupt _
  | .icfgDisableInterrupt _ => true

end Sys2Proof
end

