-- ==== Sys2Proof/Decode.lean ====
section
/-! DEFINITION. The host port's encoding of operations (`30_encoding.md` R80 to R82): the decoder, total on byte
strings and rejecting by name, then the encoder. -/

namespace Sys2Proof

/-- Why a byte string is no operation (`30_encoding.md` R99; `93_implementation_defined.md` U6). -/
inductive DecodeError where
  /-- No byte at all, so no operation code. Log entry 15. -/
  | noOpcode
  /-- The first byte is no operation code of `30_encoding.md` R82. -/
  | unknownOpcode (op : Byte)
  /-- Fewer bytes than the operation's format has (U6). Log entry 14. -/
  | truncated (op : Byte)
  /-- More bytes than the operation's format has (U6). Log entry 14. -/
  | overlong (op : Byte)
  deriving DecidableEq, Repr

/-- What the decoder answers. -/
inductive Decoded where
  | instr (i : Instr)
  | reject (e : DecodeError)
  deriving DecidableEq, Repr

/-- Format `N` of `30_encoding.md` R81: no operand byte. -/
def formatN (op : Byte) (i : Instr) : List Byte → Decoded
  | [] => .instr i
  | _ :: _ => .reject (.overlong op)

/-- Format `B`: one `u8`. -/
def formatB (op : Byte) (f : Byte → Instr) : List Byte → Decoded
  | [] => .reject (.truncated op)
  | [a] => .instr (f a)
  | _ :: _ :: _ => .reject (.overlong op)

/-- Formats `BB` and `RL`: two `u8`. -/
def formatBB (op : Byte) (f : Byte → Byte → Instr) : List Byte → Decoded
  | [] | [_] => .reject (.truncated op)
  | [a, b] => .instr (f a b)
  | _ :: _ :: _ :: _ => .reject (.overlong op)

/-- Format `H`: one `u16`, low byte first. -/
def formatH (op : Byte) (f : U16 → Instr) : List Byte → Decoded
  | [] | [_] => .reject (.truncated op)
  | [a0, a1] => .instr (f (le16 a0 a1))
  | _ :: _ :: _ :: _ => .reject (.overlong op)

/-- Format `F`: one binary32 bit pattern, low byte first. -/
def formatF (op : Byte) (f : F32 → Instr) : List Byte → Decoded
  | [] | [_] | [_, _] | [_, _, _] => .reject (.truncated op)
  | [x0, x1, x2, x3] => .instr (f (le32 x0 x1 x2 x3))
  | _ :: _ :: _ :: _ :: _ :: _ => .reject (.overlong op)

/-- Format `FH`: a binary32 bit pattern, then a `u16`. -/
def formatFH (op : Byte) (f : F32 → U16 → Instr) : List Byte → Decoded
  | [] | [_] | [_, _] | [_, _, _] | [_, _, _, _] | [_, _, _, _, _] => .reject (.truncated op)
  | [x0, x1, x2, x3, h0, h1] => .instr (f (le32 x0 x1 x2 x3) (le16 h0 h1))
  | _ :: _ :: _ :: _ :: _ :: _ :: _ :: _ => .reject (.overlong op)

/-- Format `V`: a count, then that many bytes (`30_encoding.md` R101). -/
def formatV (op : Byte) (f : List Byte → Instr) : List Byte → Decoded
  | [] => .reject (.truncated op)
  | len :: data =>
    if data.length < len.toNat then .reject (.truncated op)
    else if len.toNat < data.length then .reject (.overlong op)
    else .instr (f data)

/-- The operation a byte string stands for: exact match on all 8 bits of byte 0 (`30_encoding.md` R80, R82), then the
operands of the operation's format; every other byte 0 is illegal (R99). -/
def decode : List Byte → Decoded
  | [] => .reject .noOpcode
  | op :: args =>
    match op with
    | 0x01#8 => formatV op .writeCommand args
    | 0x02#8 => formatBB op .readRegister args
    | 0x03#8 => formatB op .setOperationMode args
    | 0x04#8 => formatN op .getPartId args
    | 0x05#8 => formatN op .getFirmwareVersion args
    | 0x06#8 => formatN op .clearCommand args
    | 0x07#8 => formatN op .getEco2 args
    | 0x08#8 => formatN op .getTvoc args
    | 0x09#8 => formatN op .getAirqualityIndex args
    | 0x0A#8 => formatN op .getEtoh args
    | 0x0B#8 => formatN op .getRawResistance args
    | 0x0C#8 => formatN op .getStatus args
    | 0x0D#8 => formatN op .getGroupData args
    | 0x0E#8 => formatFH op .setTempRhComp args
    | 0x0F#8 => formatN op .getTempRhComp args
    | 0x10#8 => formatB op .configInterruptPin args
    | 0x11#8 => formatN op .initializeSensor args
    | 0x12#8 => formatN op .getMeasurements args
    | 0x13#8 => formatN op .release args
    | 0x20#8 => formatB op .decodeStatus args
    | 0x21#8 => formatB op .decodeAqi args
    | 0x22#8 => formatBB op .decodeU16Le args
    | 0x23#8 => formatF op .encodeTempComp args
    | 0x24#8 => formatH op .decodeTempComp args
    | 0x25#8 => formatH op .decodeRawResistance args
    | 0x30#8 => formatN op .icfgBuilder args
    | 0x31#8 => formatB op .icfgActiveHigh args
    | 0x32#8 => formatB op .icfgActiveLow args
    | 0x33#8 => formatB op .icfgPushPull args
    | 0x34#8 => formatB op .icfgOpenDrain args
    | 0x35#8 => formatB op .icfgOnNewData args
    | 0x36#8 => formatB op .icfgOffNewData args
    | 0x37#8 => formatB op .icfgOnNewGroupData args
    | 0x38#8 => formatB op .icfgOffNewGroupData args
    | 0x39#8 => formatB op .icfgEnableInterrupt args
    | 0x3A#8 => formatB op .icfgDisableInterrupt args
    | _ => .reject (.unknownOpcode op)

/-- The operation code of `30_encoding.md` R82. -/
def Instr.opcode : Instr → Byte
  | .writeCommand _ => 0x01#8
  | .readRegister _ _ => 0x02#8
  | .setOperationMode _ => 0x03#8
  | .getPartId => 0x04#8
  | .getFirmwareVersion => 0x05#8
  | .clearCommand => 0x06#8
  | .getEco2 => 0x07#8
  | .getTvoc => 0x08#8
  | .getAirqualityIndex => 0x09#8
  | .getEtoh => 0x0A#8
  | .getRawResistance => 0x0B#8
  | .getStatus => 0x0C#8
  | .getGroupData => 0x0D#8
  | .setTempRhComp _ _ => 0x0E#8
  | .getTempRhComp => 0x0F#8
  | .configInterruptPin _ => 0x10#8
  | .initializeSensor => 0x11#8
  | .getMeasurements => 0x12#8
  | .release => 0x13#8
  | .decodeStatus _ => 0x20#8
  | .decodeAqi _ => 0x21#8
  | .decodeU16Le _ _ => 0x22#8
  | .encodeTempComp _ => 0x23#8
  | .decodeTempComp _ => 0x24#8
  | .decodeRawResistance _ => 0x25#8
  | .icfgBuilder => 0x30#8
  | .icfgActiveHigh _ => 0x31#8
  | .icfgActiveLow _ => 0x32#8
  | .icfgPushPull _ => 0x33#8
  | .icfgOpenDrain _ => 0x34#8
  | .icfgOnNewData _ => 0x35#8
  | .icfgOffNewData _ => 0x36#8
  | .icfgOnNewGroupData _ => 0x37#8
  | .icfgOffNewGroupData _ => 0x38#8
  | .icfgEnableInterrupt _ => 0x39#8
  | .icfgDisableInterrupt _ => 0x3A#8

/-- The operand bytes, in the layout of the operation's format (`30_encoding.md` R81). -/
def Instr.operandBytes : Instr → List Byte
  | .writeCommand bytes => BitVec.ofNat 8 bytes.length :: bytes
  | .readRegister reg n => [reg, n]
  | .setOperationMode b | .configInterruptPin b | .decodeStatus b | .decodeAqi b => [b]
  | .setTempRhComp celsius rhPercent => encodeF32Le celsius ++ encodeU16Le rhPercent
  | .decodeU16Le b0 b1 => [b0, b1]
  | .encodeTempComp celsius => encodeF32Le celsius
  | .decodeTempComp raw | .decodeRawResistance raw => encodeU16Le raw
  | .icfgActiveHigh v | .icfgActiveLow v | .icfgPushPull v | .icfgOpenDrain v | .icfgOnNewData v | .icfgOffNewData v
  | .icfgOnNewGroupData v | .icfgOffNewGroupData v | .icfgEnableInterrupt v | .icfgDisableInterrupt v => [v]
  | .getPartId | .getFirmwareVersion | .clearCommand | .getEco2 | .getTvoc | .getAirqualityIndex | .getEtoh
  | .getRawResistance | .getStatus | .getGroupData | .getTempRhComp | .initializeSensor | .getMeasurements | .release
  | .icfgBuilder => []

/-- The byte string of an operation (`30_encoding.md` R80): its code, then its operand bytes. -/
def encode (i : Instr) : List Byte := i.opcode :: i.operandBytes

/-- "Operations 0x01 to 0x13 are protocol operations" (`30_encoding.md` R82), said of an operation code. -/
def isProtocolOpcode (op : Byte) : Bool := decide (1 ≤ op.toNat) && decide (op.toNat ≤ 0x13)

/-- The operation is a protocol operation (`30_encoding.md` R82). -/
def Instr.isProtocol (i : Instr) : Bool := isProtocolOpcode i.opcode

/-- The total length of the operation that begins with these bytes (`30_encoding.md` R80, R81): known from byte 0
alone, but for format `V`, whose byte 1 counts the rest. A byte string that begins no operation is taken as one
byte. -/
def operationLength (bytes : List Byte) : Nat :=
  match bytes with
  | [] => 0
  | op :: args =>
    match op with
    | 0x01#8 => 2 + (args.headD 0).toNat
    | 0x02#8 | 0x22#8 | 0x24#8 | 0x25#8 => 3
    | 0x03#8 | 0x10#8 | 0x20#8 | 0x21#8 | 0x31#8 | 0x32#8 | 0x33#8 | 0x34#8 | 0x35#8 | 0x36#8 | 0x37#8 | 0x38#8
    | 0x39#8 | 0x3A#8 => 2
    | 0x0E#8 => 7
    | 0x23#8 => 5
    | _ => 1

/-- The first `k` bytes of a number, byte 0 from its least significant bits. -/
def bytesOfNat : Nat → Nat → List Byte
  | 0, _ => []
  | k + 1, w => BitVec.ofNat 8 w :: bytesOfNat k (w / 256)

/-- The byte string of the operation whose first `nbits` bits are `w`, bit 0 the least significant bit of byte 0, and
whose further bits are 0: exactly as many bytes as the operation has. The longest operation has 257 bytes. -/
def tableWordBytes (nbits w : Nat) : List Byte :=
  let padded := bytesOfNat (nbits / 8) w ++ List.replicate 257 0
  padded.take (operationLength padded)

/-- The operation the decoder reads from such a word; none where it rejects. -/
def decodeTableWord (nbits w : Nat) : Option Instr :=
  match decode (tableWordBytes nbits w) with
  | .instr i => some i
  | .reject _ => none

end Sys2Proof
end

