-- ==== Sys2Proof/Machine/State.lean ====
section
/-! DEFINITION. What the block holds (`10_state.md` Part 1), what travels on its three ports (`00_scope.md` R4), and
the state after reset (`10_state.md` R48). State is plain data. -/

namespace Sys2Proof.Machine

/-- `ADDR_SEL` of `00_scope.md` R9: the one-bit strap that picks the device address (`10_state.md` R21, D4). -/
inductive AddrSel where
  /-- strap level 0 -/
  | primary
  /-- strap level 1 -/
  | secondary
  deriving DecidableEq, Repr

/-- `LIFE` of `10_state.md` R22. -/
inductive Life where
  | active
  | released
  deriving DecidableEq, Repr

/-- `INIT_STATE` of `10_state.md` R23, in the order of its codes 0 to 10. -/
inductive InitState where
  | start
  | idleSet
  | idVerified
  | cleared
  | firmwareRead
  | standardSet
  | ready
  | chipIdMismatch
  | modeMismatch
  | unreachable
  | busFault
  deriving DecidableEq, Repr

/-- `BUS_ERR`: the transport's error value, carried unchanged and never inspected (`60_exceptions.md` R271). Its width
is open (`00_scope.md` R9, D29), so it is a byte string of any length. Log entry 10. -/
structure BusErr where
  bytes : List Byte
  deriving DecidableEq, Repr

/-- A request on the bus port or the delay port. -/
inductive Request where
  /-- `BusWrite(addr7, bytes)` (`20_memory.md` R50) -/
  | busWrite (addr7 : Addr7) (bytes : List Byte)
  /-- `BusWriteRead(addr7, wbytes, n)` (`20_memory.md` R51) -/
  | busWriteRead (addr7 : Addr7) (wbytes : List Byte) (n : Nat)
  /-- `DelayMs(n)` (`60_exceptions.md` R292) -/
  | delayMs (n : Nat)
  deriving DecidableEq, Repr

/-- An answer of the bus transport or of the delay unit. -/
inductive Answer where
  /-- a `BusWrite` answered `Ok` -/
  | wrote
  /-- a `BusWriteRead` answered `Ok(rbytes)` -/
  | data (rbytes : List Byte)
  /-- either bus request answered `Err(t)` -/
  | err (t : BusErr)
  /-- the completion of a `DelayMs` -/
  | elapsed
  deriving DecidableEq, Repr

/-- The validity flag (`30_encoding.md` R95). -/
inductive Validity where
  | normalOperation
  | warmupPhase
  | initialStartupPhase
  | invalidOutput
  deriving DecidableEq, Repr

/-- The `Status` record of `40_codec.md` R126. -/
structure Status where
  newGroupDataReady : Bool
  newDataReady : Bool
  validity : Validity
  error : Bool
  runningMode : Bool
  deriving DecidableEq, Repr

/-- `AirQualityIndex` of `30_encoding.md` R96, codes 0 to 6; codes 1 to 4 by position (customary names Excellent,
Good, Moderate, Poor). -/
inductive AirQualityIndex where
  | unavailable
  | aqi1
  | aqi2
  | aqi3
  | aqi4
  | unhealthy
  | invalidRange
  deriving DecidableEq, Repr

/-- The `Measurements` record of `42_accessors.md` R210. -/
structure Measurements where
  co2eqPpm : U16
  tvocPpb : U16
  airQualityIndex : AirQualityIndex
  etoh : U16
  rawResistance : F32
  deriving DecidableEq, Repr

/-- Result values, one constructor per result type of `30_encoding.md` R86. -/
inductive Value where
  | unit
  | u8 (v : Byte)
  /-- an observed `OPMODE` byte, undecoded (`30_encoding.md` R92) -/
  | mode (observed : Byte)
  | u16 (v : U16)
  | f32 (bits : F32)
  | bytes (bs : List Byte)
  | version (major minor build : Byte)
  | status (st : Status)
  | aqi (q : AirQualityIndex)
  | tempRh (celsius : F32) (rh : U16)
  | bool (b : Bool)
  | measurements (m : Measurements)
  deriving DecidableEq, Repr

/-- The complete error taxonomy (`00_scope.md` R12, `60_exceptions.md` R270). -/
inductive OpError where
  | busError (t : BusErr)
  | unexpectedChipId (id : U16)
  | opModeNotCorrect (m : Byte)
  deriving DecidableEq, Repr

/-- Why the block declines to start an operation (`30_encoding.md` R85, `60_exceptions.md` R280). -/
inductive RefusalReason where
  | unknownOp
  | badOperand
  | released
  deriving DecidableEq, Repr

/-- A response on the host port (`00_scope.md` R12). -/
inductive Response where
  | ok (v : Value)
  | err (e : OpError)
  | refused (r : RefusalReason)
  deriving DecidableEq, Repr

/-- One event on the block's ports, as the block's trace records it (`00_scope.md` R14). -/
inductive Event where
  /-- the block issues a request -/
  | issued (q : Request)
  /-- the outstanding request is answered -/
  | answered (a : Answer)
  /-- the block sends a response to the host -/
  | responded (r : Response)
  deriving DecidableEq, Repr

/-- What the agents around the block do next (`00_scope.md` R5). -/
inductive Input where
  /-- the host offers an operation -/
  | offer (bytes : List Byte)
  /-- the transport or the delay unit answers -/
  | answer (a : Answer)
  /-- the host asserts reset -/
  | reset
  deriving DecidableEq, Repr

/-- The results decoded so far by the running operation (`10_state.md` R25 (d)). -/
structure Partial where
  co2eqPpm : U16
  tvocPpb : U16
  airQualityIndex : AirQualityIndex
  etoh : U16
  celsius : F32
  deriving DecidableEq, Repr

/-- Nothing decoded yet. The zeros are never read before they are written. Log entry 19. -/
def Partial.none : Partial := ⟨0, 0, .unavailable, 0, 0⟩

/-- `RUN` of `10_state.md` R25. -/
inductive Run where
  /-- No operation runs. `OP` and `ARGS` are then, after reset among others, unspecified (R48; `ARGS` also in
  `70_reset_and_hazards.md` R313 and U18), and read by nothing; that they are not kept at all is the model's choice. DESIGN
  CHOICE, log entry 25. `SCR`: log entry 23; the results decoded so far: log entry 19. -/
  | idle
  /-- `op` is `OP` with `ARGS`, `scr` is `SCR` (empty until the first read answer: DESIGN CHOICE, log entry 23), `acc`
  the results decoded so far (log entry 19) -/
  | running (op : Instr) (scr : List Byte) (acc : Partial)
  deriving DecidableEq, Repr

/-- The block's five items of state (`10_state.md` R20), its ports, the strap it samples at reset, and the model's own
two fields: what the other agents do next, and the trace of the ports so far. -/
structure State where
  /-- the level of the strap `ADDR_SEL`, sampled at reset -/
  strap : AddrSel
  /-- `DEVADDR` (R21) -/
  devAddr : Addr7
  /-- `LIFE` (R22) -/
  life : Life
  /-- `INIT_STATE` (R23) -/
  initState : InitState
  /-- `SEQ` (R24) -/
  seq : Nat
  /-- `RUN` (R25) -/
  run : Run
  /-- the request outstanding on the bus port or the delay port (R29 (a), R48) -/
  pending : Option Request
  /-- the operations offered on the host port and not yet accepted, oldest first (`60_exceptions.md` R283) -/
  hostPort : List (List Byte)
  /-- the model's own: what the other agents do next, in order. Log entry 4. -/
  inputs : List Input
  /-- the model's own: the events on the ports so far, oldest first. Log entry 5. -/
  trace : List Event
  deriving DecidableEq, Repr

/-- The one way the machine stops. -/
inductive Fault where
  /-- Raised by the engine of the protocol operations when the transport answers the outstanding bus request with a
  shape that `20_memory.md` R50, R51 exclude: bytes for a write, none for a read, or a read answer that has not
  exactly the number of bytes asked for (D35: "short reads are unrepresentable"). Safe: for the request it was made to,
  no such answer exists. Log entry 6. A late answer to a bus request that reset abandoned may meet a later bus request
  of another kind or length; what then happens is open, and the model stops here too: DESIGN CHOICE, safe. Log entry
  24. -/
  | transportContract
  deriving DecidableEq, Repr

/-- Instructions without a meaning. -/
inductive Refusal where
  /-- Raised by an arm of exec whose operation has no meaning yet; no arm of this model does. Safe. -/
  | notModelled (mnemonic : String)
  deriving DecidableEq, Repr

/-- What every meaning answers. -/
abbrev StepOutcome := Host.Outcome State Fault Refusal

/-- The state right after reset (`10_state.md` R48). The strap level and `SEQ` are the model's choice (log entries 2,
1), as is that an idle `RUN` keeps no `OP`, `ARGS` and `SCR` (log entries 25, 23); nothing is offered, no input is waiting, and nothing has happened on the ports. -/
def State.reset : State where
  strap := .primary
  devAddr := 0x52#7
  life := .active
  initState := .start
  seq := 0
  run := .idle
  pending := Option.none
  hostPort := []
  inputs := []
  trace := []

end Sys2Proof.Machine
end

