-- ==== Sys2Proof/Machine/Flags.lean ====
section
/-! DEFINITION. Flags. The block has one, `BUSY`, which is not stored (`10_state.md` R28); the status flags of
`DEVICE_STATUS` are fields of a value (`40_codec.md` R126, `30_encoding.md` R94, R95). -/

namespace Sys2Proof.Machine

/-- `BUSY = (RUN is not Idle)` (`10_state.md` R28). -/
def State.busy (s : State) : Bool :=
  match s.run with
  | .idle => false
  | .running _ _ _ => true

/-- The validity flag of a 2-bit code; all four codes are named (`30_encoding.md` R95). -/
def validityOf (code : BitVec 2) : Validity :=
  match code with
  | 0#2 => .normalOperation
  | 1#2 => .warmupPhase
  | 2#2 => .initialStartupPhase
  | 3#2 => .invalidOutput

/-- The 2-bit code of a validity flag. -/
def validityCode : Validity → Byte
  | .normalOperation => 0
  | .warmupPhase => 1
  | .initialStartupPhase => 2
  | .invalidOutput => 3

/-- The fields of a status byte (`40_codec.md` R126); bits 5 and 4 are dropped. -/
def statusOf (b : Byte) : Status where
  newGroupDataReady := b.getLsbD 0
  newDataReady := b.getLsbD 1
  validity := validityOf (b.extractLsb' 2 2)
  error := b.getLsbD 6
  runningMode := b.getLsbD 7

end Sys2Proof.Machine
end

