-- ==== Sys2Proof/Config.lean ====
section
/-! DEFINITION. What an implementation fixes and the spec leaves open, as uninterpreted constants: no proof can see
their values, so a claim holds for every one of them. The values the spec does give are plain definitions in
Machine/Constants.lean. -/

namespace Sys2Proof

/-- `CMD_MAX_BYTES` less its least value 1 (`00_scope.md` R9: "OPEN, at least 1"). Log entry 9. -/
opaque Config.cmdMaxExtra : Nat

/-- `RD_MAX_BYTES` less its least value 8 (`00_scope.md` R9: "OPEN, at least 8"). Log entry 9. -/
opaque Config.rdMaxExtra : Nat

/-- `EXP2_F32` outside the 65536 arguments the decoder applies it to; no operation reaches it (`40_codec.md` R131).
Log entry 11. -/
opaque Config.exp2Elsewhere : F32 → F32

/-- The bit pattern of a NaN result of binary32 arithmetic; no operation's result contains one. Log entry 18. -/
opaque Config.nanBits : F32

/-- Whether an operation that waits at the host port is still offered after a reset in mid-operation. Log entry 8. -/
opaque Config.offersSurviveReset : Bool

end Sys2Proof
end

