-- ==== Sys2Proof/Machine/Constants.lean ====
section
/-! DEFINITION. The fixed constants of `00_scope.md` R10, the parameters of R9 with the values the spec gives them, and
the codes of modes, commands and interrupt-pin bits (`30_encoding.md` Part 3, `40_codec.md` R133). -/

namespace Sys2Proof.Machine

/-- `ADDR_PRIMARY` and `ADDR_SECONDARY` (`00_scope.md` R10, `10_state.md` R21). -/
def deviceAddress : AddrSel → Addr7
  | .primary => 0x52#7
  | .secondary => 0x53#7

/-- `PART_ID_EXPECTED` (`00_scope.md` R10). -/
def partIdExpected : U16 := 0x0160#16

/-- `T_MODE_SETTLE`, milliseconds (`00_scope.md` R10). -/
def tModeSettle : Nat := 50

/-- `T_PRE_CLEAR`, milliseconds. -/
def tPreClear : Nat := 50

/-- `T_POST_CLEAR`, milliseconds. -/
def tPostClear : Nat := 50

/-- `T_PRE_STANDARD`, milliseconds. -/
def tPreStandard : Nat := 10

/-- `T_POST_STANDARD`, milliseconds. -/
def tPostStandard : Nat := 150

/-- `KELVIN_OFFSET`: 273.15 as binary32 (`00_scope.md` R10, D15). -/
def kelvinOffset : F32 := 0x43889333#32

/-- `TEMP_SCALE`: 64.0 as binary32. -/
def tempScale : F32 := 0x42800000#32

/-- `RES_SCALE`: 2048.0 as binary32. -/
def resScale : F32 := 0x45000000#32

/-- `CMD_MAX_BYTES`: open, at least 1 (`00_scope.md` R9, D6). Log entry 9. -/
def cmdMaxBytes : Nat := Config.cmdMaxExtra + 1

/-- `RD_MAX_BYTES`: open, at least 8 (`00_scope.md` R9, D7). Log entry 9. -/
def rdMaxBytes : Nat := Config.rdMaxExtra + 8

/-- `CHECK_IDLE_READBACK`: decided value false (`00_scope.md` R9, `43_initialize.md` R232, D37). Log entry 12. -/
def checkIdleReadback : Bool := false

/-- `OperationMode` codes (`30_encoding.md` R90). -/
def modeSleep : Byte := 0x00#8
/-- `Idle`. -/
def modeIdle : Byte := 0x01#8
/-- `Standard`. -/
def modeStandard : Byte := 0x02#8
/-- `Reset`. -/
def modeReset : Byte := 0xF0#8

/-- Command codes written to `COMMAND` (`30_encoding.md` R93): `Nop`. -/
def cmdNop : Byte := 0x00#8
/-- `GetAppVersion`. -/
def cmdGetAppVersion : Byte := 0x0E#8
/-- `ClearGPR`. -/
def cmdClearGpr : Byte := 0xCC#8

/-- The masks of `40_codec.md` R133: `POL`, polarity. -/
def maskPol : Byte := 0x40#8
/-- `PP`, drive. The assignment of `PP`, `INTGPR`, `INTDAT`, `INTEN` is the spec's, from general knowledge: log entry
13. -/
def maskPp : Byte := 0x20#8
/-- `INTGPR`, interrupt on new group data. -/
def maskIntGpr : Byte := 0x08#8
/-- `INTDAT`, interrupt on new data. -/
def maskIntDat : Byte := 0x02#8
/-- `INTEN`, interrupt enable. -/
def maskIntEn : Byte := 0x01#8

/-- The 4-bit code of `INIT_STATE` (`10_state.md` R23). No operation reads it (`93_implementation_defined.md` U14). -/
def initStateCode : InitState → BitVec 4
  | .start => 0
  | .idleSet => 1
  | .idVerified => 2
  | .cleared => 3
  | .firmwareRead => 4
  | .standardSet => 5
  | .ready => 6
  | .chipIdMismatch => 7
  | .modeMismatch => 8
  | .unreachable => 9
  | .busFault => 10

end Sys2Proof.Machine
end

