-- ==== Sys2Proof/Machine/RegisterMap.lean ====
section
/-! DEFINITION. The sensor's register map (`10_state.md` R30 to R45): addresses and widths, "no logic, pure data"
(`00_scope.md` R3). The sensor's registers are not state of the block. -/

namespace Sys2Proof.Machine

/-- The fifteen named sensor registers of `10_state.md` R30. -/
inductive SensorReg where
  | partId
  | opmode
  | config
  | command
  | tempIn
  | rhIn
  | deviceStatus
  | dataAqi
  | dataTvoc
  | dataEtoh
  | dataEco2
  | dataT
  | dataRh
  | gprRead
  | grpRead6
  deriving DecidableEq, Repr

/-- The register's address (`10_state.md` R30). `DATA_ETOH` shares the address of `DATA_TVOC` (R40, C7). -/
def regAddr : SensorReg → Byte
  | .partId => 0x00#8
  | .opmode => 0x10#8
  | .config => 0x11#8
  | .command => 0x12#8
  | .tempIn => 0x13#8
  | .rhIn => 0x15#8
  | .deviceStatus => 0x20#8
  | .dataAqi => 0x21#8
  | .dataTvoc => 0x22#8
  | .dataEtoh => 0x22#8
  | .dataEco2 => 0x24#8
  | .dataT => 0x30#8
  | .dataRh => 0x32#8
  | .gprRead => 0x48#8
  | .grpRead6 => 0x4E#8

/-- The register's width in bytes (`10_state.md` R30, `20_memory.md` R60); for `COMMAND` its least width. -/
def regWidth : SensorReg → Nat
  | .opmode | .config | .command | .deviceStatus | .dataAqi => 1
  | .partId | .tempIn | .rhIn | .dataTvoc | .dataEtoh | .dataEco2 | .dataT | .dataRh | .grpRead6 => 2
  | .gprRead => 8

/-- A request of a micro-sequence, before `DEVADDR` is put into it: the primitives of `00_scope.md` R13. -/
inductive MicroReq where
  /-- `MemWrite(reg, len(bytes), bytes)` -/
  | memWrite (reg : Byte) (bytes : List Byte)
  /-- `MemRead(reg, n)` -/
  | memRead (reg : Byte) (n : Nat)
  /-- `DelayMs(n)` -/
  | delayMs (n : Nat)
  deriving DecidableEq, Repr

/-- The request a primitive puts on a port: a register write is `BusWrite(DEVADDR, [reg] ++ bytes)` (`20_memory.md`
R55, `30_encoding.md` R87), a register read `BusWriteRead(DEVADDR, [reg], n)` (R56, R88). -/
def toRequest (devAddr : Addr7) : MicroReq → Request
  | .memWrite reg bytes => .busWrite devAddr ([reg] ++ bytes)
  | .memRead reg n => .busWriteRead devAddr [reg] n
  | .delayMs n => .delayMs n

/-- Write a named register (`41_bus_primitives.md` R163). -/
def writeReg (r : SensorReg) (bytes : List Byte) : MicroReq := .memWrite (regAddr r) bytes

/-- Read a named register, all of its width in one transaction (`20_memory.md` R58). -/
def readReg (r : SensorReg) : MicroReq := .memRead (regAddr r) (regWidth r)

end Sys2Proof.Machine
end

