-- ==== Sys2Proof/Machine/Operands.lean ====
section
/-! DEFINITION. Operand domains (`30_encoding.md` R85), the naming of mode bytes (R90 to R92), and how read bytes become
values (`00_scope.md` R11). -/

namespace Sys2Proof.Machine

/-- The four operand codes of `SET_OPERATION_MODE` (`30_encoding.md` R90, R91). -/
def isNamedMode (b : Byte) : Bool := b = modeSleep || b = modeIdle || b = modeStandard || b = modeReset

/-- The mode a read-back byte names (`30_encoding.md` R92). -/
inductive ObservedMode where
  | sleep
  | idle
  | standard
  | reset
  | unnamed (b : Byte)
  deriving DecidableEq, Repr

/-- `DECODE_OPMODE` of `30_encoding.md` R92: every byte has a name, and none is an error. -/
def decodeOpmode (b : Byte) : ObservedMode :=
  if b = modeSleep then .sleep
  else if b = modeIdle then .idle
  else if b = modeStandard then .standard
  else if b = modeReset then .reset
  else .unnamed b

/-- The operands lie in the operation's domain (`30_encoding.md` R85). Only three operations have a domain smaller than
what their operand bytes can express. -/
def operandOk : Instr → Bool
  | .writeCommand bytes => decide (1 ≤ bytes.length) && decide (bytes.length ≤ cmdMaxBytes)
  | .readRegister _ n => decide (1 ≤ n.toNat) && decide (n.toNat ≤ rdMaxBytes)
  | .setOperationMode mode => isNamedMode mode
  | .getPartId | .getFirmwareVersion | .clearCommand | .getEco2 | .getTvoc | .getAirqualityIndex | .getEtoh
  | .getRawResistance | .getStatus | .getGroupData | .setTempRhComp _ _ | .getTempRhComp | .configInterruptPin _
  | .initializeSensor | .getMeasurements | .release => true
  | .decodeStatus _ | .decodeAqi _ | .decodeU16Le _ _ | .encodeTempComp _ | .decodeTempComp _
  | .decodeRawResistance _ | .icfgBuilder | .icfgActiveHigh _ | .icfgActiveLow _ | .icfgPushPull _ | .icfgOpenDrain _
  | .icfgOnNewData _ | .icfgOffNewData _ | .icfgOnNewGroupData _ | .icfgOffNewGroupData _ | .icfgEnableInterrupt _
  | .icfgDisableInterrupt _ => true

/-- `buf[i]`: byte `i` of the scratch buffer. The engine loads exactly as many bytes as the request asked for, so the
zero stands for no byte a micro-sequence reads. -/
def bufByte (buf : List Byte) (i : Nat) : Byte := buf.getD i 0

/-- `le16(buf[0], buf[1])`. -/
def bufU16 (buf : List Byte) : U16 := le16 (bufByte buf 0) (bufByte buf 1)

end Sys2Proof.Machine
end

