-- ==== Sys2Proof/Machine/Ops.lean ====
section
/-! DEFINITION. The named operations over the block's state: accept, issue, take an answer, respond, raise an error,
hold an offer, reset. The block has no memory and no register file (`20_memory.md` R54, `10_state.md` R27); what an
instruction-set manual calls taking an exception is `State.raise` (`60_exceptions.md` R276), and there is nothing to
return from (R277). -/

namespace Sys2Proof.Machine

/-- Append one event to the trace. -/
def State.emit (s : State) (e : Event) : State := { s with trace := s.trace ++ [e] }

/-- `RUN <- (OP, ARGS)` and `SEQ <- 0` (`41_bus_primitives.md` R160 (1)). That `SCR` is then empty is the model's choice:
its contents are unspecified until the first read answer (`10_state.md` R48, `70_reset_and_hazards.md` R313, U18).
DESIGN CHOICE, log entry 23. The zeros of the partial results: log entry 19. -/
def State.accept (s : State) (i : Instr) : State := { s with run := .running i [] Partial.none, seq := 0 }

/-- Issue a request: it is outstanding from now on (`41_bus_primitives.md` R161, `60_exceptions.md` R284). -/
def State.issue (s : State) (q : Request) : State := { s with pending := some q, trace := s.trace ++ [.issued q] }

/-- The outstanding request is answered: nothing is outstanding any more. -/
def State.takeAnswer (s : State) (a : Answer) : State :=
  { s with pending := Option.none, trace := s.trace ++ [.answered a] }

/-- Store read bytes in `SCR`; an answer without bytes leaves it (`41_bus_primitives.md` R161). -/
def State.loadScr (s : State) (read : Option (List Byte)) : State :=
  match read, s.run with
  | some bs, .running op _ acc => { s with run := .running op bs acc }
  | some _, .idle => s
  | Option.none, _ => s

/-- The contents of `SCR`. While no operation runs, after reset among others, they are unspecified (`10_state.md` R48,
U18) and read by nothing; the empty list is the model's choice. DESIGN CHOICE, log entry 23. -/
def State.scr (s : State) : List Byte :=
  match s.run with
  | .idle => []
  | .running _ scr _ => scr

/-- The results decoded so far (`10_state.md` R25 (d)). While no operation runs the spec gives none, and nothing reads
them; the zeros are the model's choice. DESIGN CHOICE, log entry 19. -/
def State.partialResults (s : State) : Partial :=
  match s.run with
  | .idle => Partial.none
  | .running _ _ acc => acc

/-- Keep a result decoded by the running operation. -/
def State.keep (s : State) (f : Partial → Partial) : State :=
  match s.run with
  | .idle => s
  | .running op scr acc => { s with run := .running op scr (f acc) }

/-- Send a response and become ready (`41_bus_primitives.md` R160 (3)): `RUN <- Idle`. That `OP`, `ARGS`, `SCR` and the
partial results are dropped with it is the model's choice: their contents are then unspecified (`10_state.md` R48, U18).
DESIGN CHOICE, log entries 25, 23, 19. -/
def State.finish (s : State) (r : Response) : State :=
  { s with run := .idle, pending := Option.none, trace := s.trace ++ [.responded r] }

/-- `return v` of `00_scope.md` R13. -/
def State.succeed (s : State) (v : Value) : State := s.finish (.ok v)

/-- `raise E(info)` of `60_exceptions.md` R276: no further request, no partial result, the response `Err(E(info))`,
`RUN <- Idle`; nothing else changes. The failure state of `INITIALIZE` (item 3) is set by its own micro-sequence. -/
def State.raise (s : State) (e : OpError) : State := s.finish (.err e)

/-- Decline an operation (`60_exceptions.md` R280): the response `Refused(r)`, no request, no state changed. -/
def State.refuse (s : State) (r : RefusalReason) : State := s.emit (.responded (.refused r))

/-- An offered operation waits at the host port (`60_exceptions.md` R283). -/
def State.enqueue (s : State) (offer : List Byte) : State := { s with hostPort := s.hostPort ++ [offer] }

/-- `INIT_STATE <- S` of `00_scope.md` R13. -/
def State.setInit (s : State) (i : InitState) : State := { s with initState := i }

/-- The offers still at the host port after a reset; whether they survive is open. Log entry 8. -/
def offersAfterReset : List (List Byte) → List (List Byte)
  | [] => []
  | o :: os => if Config.offersSurviveReset then o :: os else []

/-- Reset (`70_reset_and_hazards.md` R310, R311; `10_state.md` R48): `DEVADDR` from the strap, `LIFE = Active`,
`INIT_STATE = Start`, `RUN = Idle`, no request outstanding; no response to an abandoned operation and no request
issued. `SEQ` takes its reset value of log entry 1; `OP` and `ARGS`, which R48 leaves unspecified, are not kept (log
entry 25). -/
def State.onReset (s : State) : State :=
  { s with
    devAddr := deviceAddress s.strap
    life := .active
    initState := .start
    seq := 0
    run := .idle
    pending := Option.none
    hostPort := offersAfterReset s.hostPort }

/-- How the block takes an answer, given the outstanding request (`20_memory.md` R50, R51; `60_exceptions.md` R292). -/
inductive Reception where
  /-- the request succeeded; `read` holds the bytes of a read -/
  | good (read : Option (List Byte))
  /-- a bus request was answered `Err(t)` -/
  | bad (t : BusErr)
  /-- an answer on a port with no request outstanding: not taken. Log entry 7. -/
  | unsolicited
  /-- a shape the transport never answers this request with (log entry 6); also a late answer to a bus request that
  reset abandoned, met by a bus request of another kind or length (DESIGN CHOICE, log entry 24) -/
  | violation
  deriving DecidableEq, Repr

/-- The reception of an answer. A read succeeds with exactly `n` bytes (`20_memory.md` R51); a delay has one
completion and no error (`60_exceptions.md` R292). An answer carries no tag, so a late answer to a request that reset
abandoned (`70_reset_and_hazards.md` R311) is received as an answer to the request now outstanding: taken if it has its
shape (log entry 7), a violation if it is on the bus port and has not (log entry 24). -/
def receive (pending : Option Request) (a : Answer) : Reception :=
  match pending, a with
  | some (.busWrite _ _), .wrote => .good Option.none
  | some (.busWrite _ _), .err t => .bad t
  | some (.busWrite _ _), .data _ => .violation
  | some (.busWrite _ _), .elapsed => .unsolicited
  | some (.busWriteRead _ _ n), .data bs => if bs.length = n then .good (some bs) else .violation
  | some (.busWriteRead _ _ _), .err t => .bad t
  | some (.busWriteRead _ _ _), .wrote => .violation
  | some (.busWriteRead _ _ _), .elapsed => .unsolicited
  | some (.delayMs _), .elapsed => .good Option.none
  | some (.delayMs _), .wrote => .unsolicited
  | some (.delayMs _), .data _ => .unsolicited
  | some (.delayMs _), .err _ => .unsolicited
  | Option.none, _ => .unsolicited

end Sys2Proof.Machine
end

