-- ==== Sys2Proof/Machine/Engine.lean ====
section
/-! DEFINITION. The engine of the operations (`41_bus_primitives.md` R160, R161, R166). A protocol operation is a
table of requests, indexed by `SEQ`, with what the block does after each good answer and after a transport error. The
engine accepts an operation, issues its requests one at a time, takes the answers as the inputs give them, and stops
when the operation has ended, reset has come, or no input is left: then the operation is held at its outstanding
request (`60_exceptions.md` R284, R285) and a later step goes on from there. -/

namespace Sys2Proof.Machine

/-- What follows an answer: the next request of the table, or the end of the operation (its response sent). -/
inductive Progress where
  | next (s : State)
  | done (s : State)
  deriving DecidableEq, Repr

/-- One operation's micro-sequence (`10_state.md` R24). -/
structure MicroOp where
  /-- the requests in order; `SEQ` is an index into this list -/
  table : List MicroReq
  /-- what acceptance writes besides `RUN` and `SEQ` -/
  onAccept : State → State
  /-- the checks and decoding after a good answer to request `k`, whose bytes are in `SCR` -/
  after : Nat → State → Progress
  /-- what a transport error on request `k` does -/
  onErr : Nat → BusErr → State → Progress

/-- Fail fast (`41_bus_primitives.md` R166): `raise BusError(t)`, whichever request it was. -/
def failFast (_k : Nat) (t : BusErr) (s : State) : Progress := .done (s.raise (.busError t))

/-- A micro-sequence without checks: `between k` keeps what request `k` has read, and the result is computed after the
last answer. -/
def straightLine (table : List MicroReq) (between : Nat → State → State) (result : State → Value) : MicroOp where
  table := table
  onAccept := id
  after k s := if k + 1 < table.length then .next (between k s) else .done (s.succeed (result s))
  onErr := failFast

/-- Issue request `k` of the table, `SEQ <- k` (`41_bus_primitives.md` R161). -/
def issueAt (m : MicroOp) (k : Nat) (s : State) : State :=
  match m.table[k]? with
  | some q => { s with seq := k }.issue (toRequest s.devAddr q)
  | none => { s with seq := k }

/-- What an answer to the outstanding request leads to: the next request issued, or the operation ended. -/
inductive Turn where
  /-- the operation goes on (or the answer was not taken) -/
  | goesOn (s : State)
  /-- the operation has ended -/
  | ended (s : State)
  /-- the transport broke its contract -/
  | broken
  deriving DecidableEq, Repr

/-- Go on or end, after the checks that follow an answer: `SEQ <- k + 1` and the next request, or the end. -/
def proceed (m : MicroOp) (k : Nat) : Progress → Turn
  | .next s => .goesOn (issueAt m (k + 1) s)
  | .done s => .ended s

/-- One micro-step's answer (`41_bus_primitives.md` R161). -/
def takeTurn (m : MicroOp) (a : Answer) (s : State) : Turn :=
  match receive s.pending a with
  | .good read => proceed m s.seq (m.after s.seq ((s.takeAnswer a).loadScr read))
  | .bad t => proceed m s.seq (m.onErr s.seq t (s.takeAnswer a))
  | .unsolicited => .goesOn s
  | .violation => .broken

/-- Drive a running operation with the inputs given: an offer waits at the host port (`60_exceptions.md` R283), reset
ends the operation without a response (`70_reset_and_hazards.md` R311), an answer takes its turn. Without input the
operation is held. -/
def drive (m : MicroOp) : List Input → State → StepOutcome
  | [], s => .next { s with inputs := [] }
  | .offer o :: rest, s => drive m rest (s.enqueue o)
  | .reset :: rest, s => .next { s with inputs := rest }.onReset
  | .answer a :: rest, s =>
    match takeTurn m a s with
    | .goesOn s' => drive m rest s'
    | .ended s' => .next { s' with inputs := rest }
    | .broken => .fault .transportContract

/-- Start an accepted protocol operation: an operation with an empty table ends at once, any other issues its first
request and is driven. -/
def launch (m : MicroOp) (s : State) : StepOutcome :=
  match m.table with
  | [] =>
    match m.after 0 s with
    | .next s' => .next s'
    | .done s' => .next s'
  | _ :: _ => drive m s.inputs (issueAt m 0 s)

/-- A protocol operation offered to the block (`41_bus_primitives.md` R160). While another operation runs it waits
(`60_exceptions.md` R283); after `RELEASE` it is refused, then for an operand outside its domain (R281); otherwise it
is accepted and runs. -/
def protocolOp (i : Instr) (m : MicroOp) (s : State) : StepOutcome :=
  match s.run with
  | .running _ _ _ => .next (s.enqueue (encode i))
  | .idle =>
    match s.life with
    | .released => .next (s.refuse .released)
    | .active => if operandOk i then launch m (m.onAccept (s.accept i)) else .next (s.refuse .badOperand)

/-- A codec operation offered to the block (`40_codec.md` R120): answered as soon as it is accepted, whatever `LIFE`
is, with no request and no block state read or written; held while another operation runs (`60_exceptions.md`
R283). -/
def codecOp (i : Instr) (v : Value) (s : State) : StepOutcome :=
  match s.run with
  | .running _ _ _ => .next (s.enqueue (encode i))
  | .idle => .next (s.emit (.responded (.ok v)))

end Sys2Proof.Machine
end

