-- ==== Sys2Proof/Machine/Float32.lean ====
section
/-! DEFINITION. IEEE-754 binary32 arithmetic, to nearest, ties to even (`00_scope.md` R15), and the two conversions
(R16, R17). Arithmetic is on values (`FVal`); bit patterns are unpacked where they enter the block and packed where
they leave it. An operation computes the exact result as an integer times a power of two (a quotient: with one sticky
bit below it) and rounds once. -/

namespace Sys2Proof.Machine

/-- A binary32 value; all NaN patterns are one value. A finite value is `(-1)^neg * m * 2^e`, with `m` below `2^24` and
`e` at least -149. -/
inductive FVal where
  | nan
  | inf (neg : Bool)
  | fin (neg : Bool) (m : Nat) (e : Int)
  deriving DecidableEq, Repr

/-- The value of a bit pattern: sign bit 31, exponent bits 30 to 23, fraction bits 22 to 0. -/
def unpack (x : F32) : FVal :=
  let neg := x.getLsbD 31
  let expo := (x.extractLsb' 23 8).toNat
  let frac := (x.extractLsb' 0 23).toNat
  if expo = 255 then (if frac = 0 then .inf neg else .nan)
  else if expo = 0 then .fin neg frac (-149)
  else .fin neg (2 ^ 23 + frac) ((expo : Int) - 150)

/-- `n / 2^d` rounded to an integer, to nearest, ties to even. -/
def roundShift (n d : Nat) : Nat :=
  let q := n / 2 ^ d
  let r := n % 2 ^ d
  if 2 ^ d < 2 * r ∨ (2 * r = 2 ^ d ∧ q % 2 = 1) then q + 1 else q

/-- The binary32 value nearest to `(-1)^neg * n * 2^e`, in the form `unpack` gives it: at most 24 significant bits, a
least exponent of -149, infinity past the largest finite value. -/
def roundTo (neg : Bool) (n : Nat) (e : Int) : FVal :=
  if n = 0 then .fin neg 0 (-149)
  else
    let t := max (e + Nat.log2 n - 23) (-149)
    let m := if t ≤ e then n * 2 ^ (e - t).toNat else roundShift n (t - e).toNat
    if m = 2 ^ 24 then (if t + 1 ≤ 104 then .fin neg (2 ^ 23) (t + 1) else .inf neg)
    else if t ≤ 104 then .fin neg m t
    else .inf neg

/-- The bit pattern of a value in the form `roundTo` gives. The pattern of a NaN is left open. Log entry 18. -/
def pack : FVal → F32
  | .nan => Config.nanBits
  | .inf neg => (if neg then 0x80000000#32 else 0#32) ||| 0x7F800000#32
  | .fin neg m e =>
    (if neg then 0x80000000#32 else 0#32) |||
      (if m < 2 ^ 23 then BitVec.ofNat 32 m
       else BitVec.ofNat 32 ((e + 150).toNat * 2 ^ 23 + (m - 2 ^ 23)))

/-- A signed significand. -/
def signed (neg : Bool) (m : Nat) : Int := if neg then -(m : Int) else m

/-- `fadd32` of `00_scope.md` R15. An exact sum of zero is +0, but of two negative zeros -0. -/
def fadd32 : FVal → FVal → FVal
  | .nan, _ => .nan
  | .inf _, .nan => .nan
  | .inf s, .inf t => if s = t then .inf s else .nan
  | .inf s, .fin _ _ _ => .inf s
  | .fin _ _ _, .nan => .nan
  | .fin _ _ _, .inf t => .inf t
  | .fin s m e, .fin t n f =>
    let g := min e f
    let sum := signed s m * 2 ^ (e - g).toNat + signed t n * 2 ^ (f - g).toNat
    if sum = 0 then .fin (s && t) 0 (-149)
    else roundTo (decide (sum < 0)) sum.natAbs g

/-- `-a`. -/
def fneg32 : FVal → FVal
  | .nan => .nan
  | .inf s => .inf (!s)
  | .fin s m e => .fin (!s) m e

/-- `fsub32` of `00_scope.md` R15. -/
def fsub32 (a b : FVal) : FVal := fadd32 a (fneg32 b)

/-- `fmul32` of `00_scope.md` R15. -/
def fmul32 : FVal → FVal → FVal
  | .nan, _ => .nan
  | .inf _, .nan => .nan
  | .inf s, .inf t => .inf (s ^^ t)
  | .inf s, .fin t n _ => if n = 0 then .nan else .inf (s ^^ t)
  | .fin _ _ _, .nan => .nan
  | .fin s m _, .inf t => if m = 0 then .nan else .inf (s ^^ t)
  | .fin s m e, .fin t n f => roundTo (s ^^ t) (m * n) (e + f)

/-- `fdiv32` of `00_scope.md` R15: the quotient's significand is taken to 60 bits below the point, with a last bit that
is 1 when something remains, which is more than one rounding needs. -/
def fdiv32 : FVal → FVal → FVal
  | .nan, _ => .nan
  | .inf _, .nan => .nan
  | .inf _, .inf _ => .nan
  | .inf s, .fin t _ _ => .inf (s ^^ t)
  | .fin _ _ _, .nan => .nan
  | .fin s _ _, .inf t => .fin (s ^^ t) 0 (-149)
  | .fin s m e, .fin t n f =>
    if n = 0 then (if m = 0 then .nan else .inf (s ^^ t))
    else roundTo (s ^^ t) (2 * (m * 2 ^ 60 / n) + (if m * 2 ^ 60 % n = 0 then 0 else 1)) (e - f - 61)

/-- `u16_to_f32` of `00_scope.md` R16: exact. -/
def u16ToF32 (v : U16) : FVal := roundTo false v.toNat 0

/-- The magnitude of a finite value with its fraction discarded. -/
def truncMag (m : Nat) (e : Int) : Nat := if 0 ≤ e then m * 2 ^ e.toNat else m / 2 ^ (-e).toNat

/-- `f32_to_u16_trunc_sat` of `00_scope.md` R17: NaN gives 0, what is below 0 gives 0, what is above 65535 gives
65535. -/
def f32ToU16TruncSat : FVal → U16
  | .nan => 0
  | .inf neg => if neg then 0 else 0xFFFF#16
  | .fin neg m e => if neg then 0 else if 65535 < truncMag m e then 0xFFFF#16 else BitVec.ofNat 16 (truncMag m e)

/-- The rational number a finite value stands for; nothing for a NaN or an infinity. -/
def valueOf : FVal → Option Rat
  | .nan => none
  | .inf _ => none
  | .fin neg m e => some ((signed neg m : Rat) * (2 : Rat) ^ e)

/-- The rational number a bit pattern stands for. -/
def f32Value (x : F32) : Option Rat := valueOf (unpack x)

end Sys2Proof.Machine
end

