-- ==== Sys2Proof/Machine/Exp2.lean ====
section
/-! DEFINITION. `EXP2_F32` (`40_codec.md` R131) at its decided default, property P3: the binary32 value nearest to
`2^x`. The arguments of the decoder are `x = raw / 2048`; with `raw = 2048 k + f`, `2^x = 2^k * 2^(f/2048)`, and the
24-bit significand nearest to `2^(23 + f/2048)` is found by comparing 2048th powers of integers, exactly. Log entry
11. -/

namespace Sys2Proof.Machine

/-- The half-integer `m - 1/2` lies below `2^(23 + f/2048)`, said without fractions. -/
def belowExp2 (f m : Nat) : Bool := decide ((2 * m - 1) ^ 2048 < 2 ^ (24 * 2048 + f))

/-- Add to `acc` every power of two, from `2^(k-1)` down to 1, that keeps it below the target. -/
def exp2Search (f : Nat) : Nat → Nat → Nat
  | 0, acc => acc
  | k + 1, acc => exp2Search f k (if belowExp2 f (acc + 2 ^ k) then acc + 2 ^ k else acc)

/-- The integer nearest to `2^(23 + f/2048)`, for `f` below 2048. -/
def exp2Significand (f : Nat) : Nat := exp2Search f 23 (2 ^ 23)

/-- The binary32 value nearest to `2^(raw/2048)`. -/
def exp2Raw (raw : Nat) : FVal := .fin false (exp2Significand (raw % 2048)) ((raw / 2048 : Nat) - 23)

/-- The number `n` below 65536 with `x = n / 2048`, where there is one. -/
def exp2Argument : FVal → Option Nat
  | .nan => none
  | .inf _ => none
  | .fin neg m e =>
    if neg && decide (m ≠ 0) then none
    else
      let n := truncMag m (e + 11)
      if n < 65536 ∧ (0 ≤ e + 11 ∨ m % 2 ^ (-(e + 11)).toNat = 0) then some n else none

/-- `EXP2_F32` of `40_codec.md` R131: total; correctly rounded on the decoder's 65536 arguments, left open elsewhere. -/
def exp2F32 (x : FVal) : FVal :=
  match exp2Argument x with
  | some n => exp2Raw n
  | none => unpack (Config.exp2Elsewhere (pack x))

end Sys2Proof.Machine
end

