-- ==== Sys2Proof/Machine/Codec.lean ====
section
/-! DEFINITION. The codec functions and the six decoder and encoder operations (`40_codec.md` sections 1 to 4). The
function a protocol operation applies is the one its host-visible operation computes (R121). -/

namespace Sys2Proof.Machine

/-- `DECODE_AQI` (`40_codec.md` R127): on the whole byte, unmasked. -/
def aqiOf (b : Byte) : AirQualityIndex :=
  match b with
  | 0#8 => .unavailable
  | 1#8 => .aqi1
  | 2#8 => .aqi2
  | 3#8 => .aqi3
  | 4#8 => .aqi4
  | 5#8 => .unhealthy
  | _ => .invalidRange

/-- `ENCODE_TEMP_COMP` (`40_codec.md` R129): binary32 intermediates, then truncation with saturation. -/
def tempEncode (c : F32) : U16 :=
  f32ToU16TruncSat (fmul32 (fadd32 (unpack c) (unpack kelvinOffset)) (unpack tempScale))

/-- `DECODE_TEMP_COMP` (`40_codec.md` R130). -/
def tempDecode (raw : U16) : F32 := pack (fsub32 (fdiv32 (u16ToF32 raw) (unpack tempScale)) (unpack kelvinOffset))

/-- `DECODE_RAW_RESISTANCE` (`40_codec.md` R132). -/
def resistanceDecode (raw : U16) : F32 := pack (exp2F32 (fdiv32 (u16ToF32 raw) (unpack resScale)))

/-- `DECODE_STATUS b` (`40_codec.md` R126). -/
def execDecodeStatus (b : Byte) (s : State) : StepOutcome := codecOp (.decodeStatus b) (.status (statusOf b)) s

/-- `DECODE_AQI b` (R127). -/
def execDecodeAqi (b : Byte) (s : State) : StepOutcome := codecOp (.decodeAqi b) (.aqi (aqiOf b)) s

/-- `DECODE_U16_LE b0, b1` (R128). -/
def execDecodeU16Le (b0 b1 : Byte) (s : State) : StepOutcome := codecOp (.decodeU16Le b0 b1) (.u16 (le16 b0 b1)) s

/-- `ENCODE_TEMP_COMP c` (R129). -/
def execEncodeTempComp (c : F32) (s : State) : StepOutcome := codecOp (.encodeTempComp c) (.u16 (tempEncode c)) s

/-- `DECODE_TEMP_COMP raw` (R130). -/
def execDecodeTempComp (raw : U16) (s : State) : StepOutcome :=
  codecOp (.decodeTempComp raw) (.f32 (tempDecode raw)) s

/-- `DECODE_RAW_RESISTANCE raw` (R132). -/
def execDecodeRawResistance (raw : U16) (s : State) : StepOutcome :=
  codecOp (.decodeRawResistance raw) (.f32 (resistanceDecode raw)) s

end Sys2Proof.Machine
end

