-- ==== Sys2Proof/Machine/Accessors.lean ====
section
/-! DEFINITION. The fifteen accessor operations (`42_accessors.md`): for each its micro-sequence and its meaning. -/

namespace Sys2Proof.Machine

/-- A single register read plus a decode of the bytes read (`42_accessors.md` section 2). -/
def readAndDecode (r : SensorReg) (f : List Byte → Value) : MicroOp :=
  straightLine [readReg r] (fun _ s => s) (fun s => f s.scr)

/-- The micro-sequence of `SET_OPERATION_MODE` (R180): write, settle, read back. -/
def microSetOperationMode (mode : Byte) : MicroOp :=
  straightLine [writeReg .opmode [mode], .delayMs tModeSettle, readReg .opmode] (fun _ s => s)
    (fun s => .mode (bufByte s.scr 0))

/-- `SET_OPERATION_MODE mode` (R180). -/
def execSetOperationMode (mode : Byte) (s : State) : StepOutcome :=
  protocolOp (.setOperationMode mode) (microSetOperationMode mode) s

/-- The micro-sequence of `GET_PART_ID` (R182). -/
def microGetPartId : MicroOp := readAndDecode .partId (fun buf => .u16 (bufU16 buf))

/-- `GET_PART_ID` (R182). -/
def execGetPartId (s : State) : StepOutcome := protocolOp .getPartId microGetPartId s

/-- The micro-sequence of `GET_FIRMWARE_VERSION` (R184): bytes 4, 5, 6 of the answer. -/
def microGetFirmwareVersion : MicroOp :=
  straightLine [writeReg .command [cmdGetAppVersion], readReg .gprRead] (fun _ s => s)
    (fun s => .version (bufByte s.scr 4) (bufByte s.scr 5) (bufByte s.scr 6))

/-- `GET_FIRMWARE_VERSION` (R184). -/
def execGetFirmwareVersion (s : State) : StepOutcome := protocolOp .getFirmwareVersion microGetFirmwareVersion s

/-- The micro-sequence of `CLEAR_COMMAND` (R186): `Nop` before `ClearGPR`. -/
def microClearCommand : MicroOp :=
  straightLine [writeReg .command [cmdNop], writeReg .command [cmdClearGpr]] (fun _ s => s) (fun _ => .unit)

/-- `CLEAR_COMMAND` (R186). -/
def execClearCommand (s : State) : StepOutcome := protocolOp .clearCommand microClearCommand s

/-- The micro-sequence of `GET_ECO2` (R188). -/
def microGetEco2 : MicroOp := readAndDecode .dataEco2 (fun buf => .u16 (bufU16 buf))

/-- `GET_ECO2` (R188). -/
def execGetEco2 (s : State) : StepOutcome := protocolOp .getEco2 microGetEco2 s

/-- The micro-sequence of `GET_TVOC` (R190). -/
def microGetTvoc : MicroOp := readAndDecode .dataTvoc (fun buf => .u16 (bufU16 buf))

/-- `GET_TVOC` (R190). -/
def execGetTvoc (s : State) : StepOutcome := protocolOp .getTvoc microGetTvoc s

/-- The micro-sequence of `GET_AIRQUALITY_INDEX` (R192). -/
def microGetAirqualityIndex : MicroOp := readAndDecode .dataAqi (fun buf => .aqi (aqiOf (bufByte buf 0)))

/-- `GET_AIRQUALITY_INDEX` (R192). -/
def execGetAirqualityIndex (s : State) : StepOutcome := protocolOp .getAirqualityIndex microGetAirqualityIndex s

/-- The micro-sequence of `GET_ETOH` (R194): the address of `DATA_TVOC`. -/
def microGetEtoh : MicroOp := readAndDecode .dataEtoh (fun buf => .u16 (bufU16 buf))

/-- `GET_ETOH` (R194). -/
def execGetEtoh (s : State) : StepOutcome := protocolOp .getEtoh microGetEtoh s

/-- The micro-sequence of `GET_RAW_RESISTANCE` (R196). -/
def microGetRawResistance : MicroOp := readAndDecode .grpRead6 (fun buf => .f32 (resistanceDecode (bufU16 buf)))

/-- `GET_RAW_RESISTANCE` (R196). -/
def execGetRawResistance (s : State) : StepOutcome := protocolOp .getRawResistance microGetRawResistance s

/-- The micro-sequence of `GET_STATUS` (R198). -/
def microGetStatus : MicroOp := readAndDecode .deviceStatus (fun buf => .status (statusOf (bufByte buf 0)))

/-- `GET_STATUS` (R198). -/
def execGetStatus (s : State) : StepOutcome := protocolOp .getStatus microGetStatus s

/-- The micro-sequence of `GET_GROUP_DATA` (R199): the 8 bytes as they are. -/
def microGetGroupData : MicroOp := readAndDecode .gprRead (fun buf => .bytes buf)

/-- `GET_GROUP_DATA` (R199). -/
def execGetGroupData (s : State) : StepOutcome := protocolOp .getGroupData microGetGroupData s

/-- The micro-sequence of `SET_TEMP_RH_COMP` (R203): temperature first, humidity unscaled, two transactions. -/
def microSetTempRhComp (celsius : F32) (rhPercent : U16) : MicroOp :=
  straightLine [writeReg .tempIn (encodeU16Le (tempEncode celsius)), writeReg .rhIn (encodeU16Le rhPercent)]
    (fun _ s => s) (fun _ => .unit)

/-- `SET_TEMP_RH_COMP celsius, rh_percent` (R203). -/
def execSetTempRhComp (celsius : F32) (rhPercent : U16) (s : State) : StepOutcome :=
  protocolOp (.setTempRhComp celsius rhPercent) (microSetTempRhComp celsius rhPercent) s

/-- What `GET_TEMP_RH_COMP` keeps of its first read: the decoded temperature. -/
def keepCelsius (s : State) : State := s.keep fun p => { p with celsius := tempDecode (bufU16 s.scr) }

/-- The micro-sequence of `GET_TEMP_RH_COMP` (R205): two reads, the humidity word unscaled. -/
def microGetTempRhComp : MicroOp :=
  straightLine [readReg .dataT, readReg .dataRh] (fun _ s => keepCelsius s)
    (fun s => .tempRh s.partialResults.celsius (bufU16 s.scr))

/-- `GET_TEMP_RH_COMP` (R205). -/
def execGetTempRhComp (s : State) : StepOutcome := protocolOp .getTempRhComp microGetTempRhComp s

/-- The micro-sequence of `CONFIG_INTERRUPT_PIN` (R207): write, read back, no comparison. -/
def microConfigInterruptPin (config : Byte) : MicroOp :=
  straightLine [writeReg .config [config], readReg .config] (fun _ s => s) (fun s => .u8 (bufByte s.scr 0))

/-- `CONFIG_INTERRUPT_PIN config` (R207). -/
def execConfigInterruptPin (config : Byte) (s : State) : StepOutcome :=
  protocolOp (.configInterruptPin config) (microConfigInterruptPin config) s

/-- What `GET_MEASUREMENTS` keeps after each of its first four reads (R210). -/
def keepMeasurement (k : Nat) (s : State) : State :=
  match k with
  | 0 => s.keep fun p => { p with co2eqPpm := bufU16 s.scr }
  | 1 => s.keep fun p => { p with tvocPpb := bufU16 s.scr }
  | 2 => s.keep fun p => { p with airQualityIndex := aqiOf (bufByte s.scr 0) }
  | _ => s.keep fun p => { p with etoh := bufU16 s.scr }

/-- The record `GET_MEASUREMENTS` returns after its fifth read (R210). -/
def measurementsResult (s : State) : Measurements where
  co2eqPpm := s.partialResults.co2eqPpm
  tvocPpb := s.partialResults.tvocPpb
  airQualityIndex := s.partialResults.airQualityIndex
  etoh := s.partialResults.etoh
  rawResistance := resistanceDecode (bufU16 s.scr)

/-- The micro-sequence of `GET_MEASUREMENTS` (R210): five reads in this order, no delay. -/
def microGetMeasurements : MicroOp :=
  straightLine [readReg .dataEco2, readReg .dataTvoc, readReg .dataAqi, readReg .dataEtoh, readReg .grpRead6]
    keepMeasurement (fun s => .measurements (measurementsResult s))

/-- `GET_MEASUREMENTS` (R210). -/
def execGetMeasurements (s : State) : StepOutcome := protocolOp .getMeasurements microGetMeasurements s

end Sys2Proof.Machine
end

