-- ==== Sys2Proof/Machine/Builder.lean ====
section
/-! DEFINITION. The interrupt-pin configuration builder (`40_codec.md` section 5): each toggle sets or clears exactly
one bit of the byte it is given; the block stores nothing (R133). -/

namespace Sys2Proof.Machine

/-- Set a bit: OR with its mask (`40_codec.md` R133). -/
def setMask (mask v : Byte) : Byte := v ||| mask

/-- Clear a bit: AND with the complement of its mask (`40_codec.md` R133). -/
def clearMask (mask v : Byte) : Byte := v &&& ~~~mask

/-- The value a builder chain starts from: all bits clear (`40_codec.md` R134). -/
def builderStart : Byte := 0x00#8

/-- `ICFG_BUILDER` (R134). -/
def execIcfgBuilder (s : State) : StepOutcome := codecOp .icfgBuilder (.u8 builderStart) s

/-- `ICFG_ACTIVE_HIGH v` (R135). -/
def execIcfgActiveHigh (v : Byte) (s : State) : StepOutcome := codecOp (.icfgActiveHigh v) (.u8 (setMask maskPol v)) s

/-- `ICFG_ACTIVE_LOW v` (R136). -/
def execIcfgActiveLow (v : Byte) (s : State) : StepOutcome := codecOp (.icfgActiveLow v) (.u8 (clearMask maskPol v)) s

/-- `ICFG_PUSH_PULL v` (R137). -/
def execIcfgPushPull (v : Byte) (s : State) : StepOutcome := codecOp (.icfgPushPull v) (.u8 (setMask maskPp v)) s

/-- `ICFG_OPEN_DRAIN v` (R138). -/
def execIcfgOpenDrain (v : Byte) (s : State) : StepOutcome := codecOp (.icfgOpenDrain v) (.u8 (clearMask maskPp v)) s

/-- `ICFG_ON_NEW_DATA v` (R139). -/
def execIcfgOnNewData (v : Byte) (s : State) : StepOutcome := codecOp (.icfgOnNewData v) (.u8 (setMask maskIntDat v)) s

/-- `ICFG_OFF_NEW_DATA v` (R140). -/
def execIcfgOffNewData (v : Byte) (s : State) : StepOutcome :=
  codecOp (.icfgOffNewData v) (.u8 (clearMask maskIntDat v)) s

/-- `ICFG_ON_NEW_GROUP_DATA v` (R141). -/
def execIcfgOnNewGroupData (v : Byte) (s : State) : StepOutcome :=
  codecOp (.icfgOnNewGroupData v) (.u8 (setMask maskIntGpr v)) s

/-- `ICFG_OFF_NEW_GROUP_DATA v` (R142). -/
def execIcfgOffNewGroupData (v : Byte) (s : State) : StepOutcome :=
  codecOp (.icfgOffNewGroupData v) (.u8 (clearMask maskIntGpr v)) s

/-- `ICFG_ENABLE_INTERRUPT v` (R143). -/
def execIcfgEnableInterrupt (v : Byte) (s : State) : StepOutcome :=
  codecOp (.icfgEnableInterrupt v) (.u8 (setMask maskIntEn v)) s

/-- `ICFG_DISABLE_INTERRUPT v` (R144). -/
def execIcfgDisableInterrupt (v : Byte) (s : State) : StepOutcome :=
  codecOp (.icfgDisableInterrupt v) (.u8 (clearMask maskIntEn v)) s

/-- The ten toggles of `40_codec.md` R133. -/
inductive Toggle where
  | activeHigh
  | activeLow
  | pushPull
  | openDrain
  | onNewData
  | offNewData
  | onNewGroupData
  | offNewGroupData
  | enableInterrupt
  | disableInterrupt
  deriving DecidableEq, Repr

/-- The operation of a toggle, on the byte it is given. -/
def toggleInstr : Toggle → Byte → Instr
  | .activeHigh => .icfgActiveHigh
  | .activeLow => .icfgActiveLow
  | .pushPull => .icfgPushPull
  | .openDrain => .icfgOpenDrain
  | .onNewData => .icfgOnNewData
  | .offNewData => .icfgOffNewData
  | .onNewGroupData => .icfgOnNewGroupData
  | .offNewGroupData => .icfgOffNewGroupData
  | .enableInterrupt => .icfgEnableInterrupt
  | .disableInterrupt => .icfgDisableInterrupt

/-- The mask of the one bit a toggle touches (`40_codec.md` R133). -/
def toggleMask : Toggle → Byte
  | .activeHigh | .activeLow => maskPol
  | .pushPull | .openDrain => maskPp
  | .onNewData | .offNewData => maskIntDat
  | .onNewGroupData | .offNewGroupData => maskIntGpr
  | .enableInterrupt | .disableInterrupt => maskIntEn

/-- Whether a toggle sets its bit (`40_codec.md` R133). -/
def toggleSets : Toggle → Bool
  | .activeHigh | .pushPull | .onNewData | .onNewGroupData | .enableInterrupt => true
  | .activeLow | .openDrain | .offNewData | .offNewGroupData | .disableInterrupt => false

/-- A toggle as a function of the byte. -/
def applyToggle (t : Toggle) (v : Byte) : Byte :=
  if toggleSets t then setMask (toggleMask t) v else clearMask (toggleMask t) v

/-- The operations of the rest of a chain, each operand the result before it (`30_encoding.md` R103). -/
def expandToggles : List Toggle → Byte → List Instr
  | [], _ => []
  | t :: ts, v => toggleInstr t v :: expandToggles ts (applyToggle t v)

/-- The pseudo-operation of `30_encoding.md` R103: a builder chain as a list of operations. -/
def expandChain (ts : List Toggle) : List Instr := .icfgBuilder :: expandToggles ts builderStart

/-- The chain's value, its last result (`30_encoding.md` R103). -/
def chainValue (ts : List Toggle) : Byte := ts.foldl (fun v t => applyToggle t v) builderStart

end Sys2Proof.Machine
end

