-- ==== Sys2Proof/Machine/Bus.lean ====
section
/-! DEFINITION. The two bus primitives (`41_bus_primitives.md` section 2). -/

namespace Sys2Proof.Machine

/-- The micro-sequence of `WRITE_COMMAND` (R162). -/
def microWriteCommand (bytes : List Byte) : MicroOp :=
  straightLine [writeReg .command bytes] (fun _ s => s) (fun _ => .unit)

/-- `WRITE_COMMAND bytes` (R162). -/
def execWriteCommand (bytes : List Byte) (s : State) : StepOutcome :=
  protocolOp (.writeCommand bytes) (microWriteCommand bytes) s

/-- The micro-sequence of `READ_REGISTER` (R165): any address is forwarded, nothing is decoded. -/
def microReadRegister (reg n : Byte) : MicroOp :=
  straightLine [.memRead reg n.toNat] (fun _ s => s) (fun s => .bytes s.scr)

/-- `READ_REGISTER reg, n` (R165). -/
def execReadRegister (reg n : Byte) (s : State) : StepOutcome :=
  protocolOp (.readRegister reg n) (microReadRegister reg n) s

end Sys2Proof.Machine
end

