-- ==== Sys2Proof/Machine/Initialize.lean ====
section
/-! DEFINITION. `INITIALIZE`, the state machine, and `RELEASE` (`43_initialize.md`). -/

namespace Sys2Proof.Machine

/-- The nineteen requests of `43_initialize.md` R231, in the order of `SEQ`. -/
def initTable : List MicroReq :=
  [writeReg .opmode [modeIdle], .delayMs tModeSettle, readReg .opmode, readReg .deviceStatus, readReg .partId,
    .delayMs tPreClear, writeReg .command [cmdNop], writeReg .command [cmdClearGpr], .delayMs tPostClear,
    readReg .deviceStatus, writeReg .command [cmdGetAppVersion], readReg .gprRead, .delayMs tPreStandard,
    writeReg .opmode [modeStandard], .delayMs tModeSettle, readReg .opmode, .delayMs tPostStandard,
    readReg .deviceStatus, readReg .opmode]

/-- The Idle read-back at `SEQ` 2 (`43_initialize.md` R232): not compared, unless the parameter
`CHECK_IDLE_READBACK` asks for it. -/
def afterIdleReadback (checkIdle : Bool) (s : State) : Progress :=
  if checkIdle && bufByte s.scr 0 != modeIdle then
    .done ((s.setInit .modeMismatch).raise (.opModeNotCorrect (bufByte s.scr 0)))
  else .next (s.setInit .idleSet)

/-- The part-ID check at `SEQ` 4 (`43_initialize.md` R236 (b), (c)). -/
def afterPartId (s : State) : Progress :=
  if bufU16 s.scr = partIdExpected then .next (s.setInit .idVerified)
  else .done ((s.setInit .chipIdMismatch).raise (.unexpectedChipId (bufU16 s.scr)))

/-- The Standard check at `SEQ` 15 (`43_initialize.md` R239). -/
def afterStandardReadback (s : State) : Progress :=
  if bufByte s.scr 0 = modeStandard then .next (s.setInit .standardSet)
  else .done ((s.setInit .modeMismatch).raise (.opModeNotCorrect (bufByte s.scr 0)))

/-- What follows a good answer to request `k` (`43_initialize.md` R231, R243). -/
def initAfter (checkIdle : Bool) (k : Nat) (s : State) : Progress :=
  match k with
  | 2 => afterIdleReadback checkIdle s
  | 4 => afterPartId s
  | 9 => .next (s.setInit .cleared)
  | 11 => .next (s.setInit .firmwareRead)
  | 15 => afterStandardReadback s
  | 18 => .done ((s.setInit .ready).succeed (.bool true))
  | _ => .next s

/-- What a transport error on request `k` does: at `SEQ` 4 it is caught and the response is `Ok(false)`
(`43_initialize.md` R236 (a)); anywhere else `BusError` (R230). -/
def initOnErr (k : Nat) (t : BusErr) (s : State) : Progress :=
  match k with
  | 4 => .done ((s.setInit .unreachable).succeed (.bool false))
  | _ => .done ((s.setInit .busFault).raise (.busError t))

/-- The micro-sequence of `INITIALIZE` (R230), for a value of `CHECK_IDLE_READBACK`. -/
def microInitialize (checkIdle : Bool) : MicroOp where
  table := initTable
  onAccept s := s.setInit .start
  after := initAfter checkIdle
  onErr := initOnErr

/-- `INITIALIZE` (R230). -/
def execInitialize (s : State) : StepOutcome := protocolOp .initializeSensor (microInitialize checkIdleReadback) s

/-- The micro-sequence of `RELEASE` (R245): no request; `LIFE <- Released`. -/
def microRelease : MicroOp where
  table := []
  onAccept := id
  after _ s := .done ({ s with life := .released }.succeed .unit)
  onErr := failFast

/-- `RELEASE` (R245). -/
def execRelease (s : State) : StepOutcome := protocolOp .release microRelease s

end Sys2Proof.Machine
end

