-- ==== Sys2Proof/Machine/Dispatch.lean ====
section
/-! DEFINITION. The meaning of every operation, one arm per constructor: what happens when the host's next operation
is `i` in state `s`. -/

namespace Sys2Proof.Machine

/-- One arm per row of `30_encoding.md` R82. -/
def exec (i : Instr) (s : State) : Host.Outcome State Fault Refusal :=
  match i with
  | .writeCommand bytes => Sys2Proof.Machine.execWriteCommand bytes s
  | .readRegister reg n => Sys2Proof.Machine.execReadRegister reg n s
  | .setOperationMode mode => Sys2Proof.Machine.execSetOperationMode mode s
  | .getPartId => Sys2Proof.Machine.execGetPartId s
  | .getFirmwareVersion => Sys2Proof.Machine.execGetFirmwareVersion s
  | .clearCommand => Sys2Proof.Machine.execClearCommand s
  | .getEco2 => Sys2Proof.Machine.execGetEco2 s
  | .getTvoc => Sys2Proof.Machine.execGetTvoc s
  | .getAirqualityIndex => Sys2Proof.Machine.execGetAirqualityIndex s
  | .getEtoh => Sys2Proof.Machine.execGetEtoh s
  | .getRawResistance => Sys2Proof.Machine.execGetRawResistance s
  | .getStatus => Sys2Proof.Machine.execGetStatus s
  | .getGroupData => Sys2Proof.Machine.execGetGroupData s
  | .setTempRhComp celsius rhPercent => Sys2Proof.Machine.execSetTempRhComp celsius rhPercent s
  | .getTempRhComp => Sys2Proof.Machine.execGetTempRhComp s
  | .configInterruptPin config => Sys2Proof.Machine.execConfigInterruptPin config s
  | .initializeSensor => Sys2Proof.Machine.execInitialize s
  | .getMeasurements => Sys2Proof.Machine.execGetMeasurements s
  | .release => Sys2Proof.Machine.execRelease s
  | .decodeStatus b => Sys2Proof.Machine.execDecodeStatus b s
  | .decodeAqi b => Sys2Proof.Machine.execDecodeAqi b s
  | .decodeU16Le b0 b1 => Sys2Proof.Machine.execDecodeU16Le b0 b1 s
  | .encodeTempComp celsius => Sys2Proof.Machine.execEncodeTempComp celsius s
  | .decodeTempComp raw => Sys2Proof.Machine.execDecodeTempComp raw s
  | .decodeRawResistance raw => Sys2Proof.Machine.execDecodeRawResistance raw s
  | .icfgBuilder => Sys2Proof.Machine.execIcfgBuilder s
  | .icfgActiveHigh v => Sys2Proof.Machine.execIcfgActiveHigh v s
  | .icfgActiveLow v => Sys2Proof.Machine.execIcfgActiveLow v s
  | .icfgPushPull v => Sys2Proof.Machine.execIcfgPushPull v s
  | .icfgOpenDrain v => Sys2Proof.Machine.execIcfgOpenDrain v s
  | .icfgOnNewData v => Sys2Proof.Machine.execIcfgOnNewData v s
  | .icfgOffNewData v => Sys2Proof.Machine.execIcfgOffNewData v s
  | .icfgOnNewGroupData v => Sys2Proof.Machine.execIcfgOnNewGroupData v s
  | .icfgOffNewGroupData v => Sys2Proof.Machine.execIcfgOffNewGroupData v s
  | .icfgEnableInterrupt v => Sys2Proof.Machine.execIcfgEnableInterrupt v s
  | .icfgDisableInterrupt v => Sys2Proof.Machine.execIcfgDisableInterrupt v s

end Sys2Proof.Machine
end

