-- ==== Sys2Proof/Machine/Fetch.lean ====
section
/-! DEFINITION. What a step finds to do: a running operation to go on with, an operation to decode, or another input
(`10_state.md` R25, `60_exceptions.md` R283). -/

namespace Sys2Proof.Machine

/-- The micro-sequence of an operation that has none to go on with: nothing runs it. -/
def microNone : MicroOp where
  table := []
  onAccept := id
  after _ s := .next s
  onErr := failFast

/-- The micro-sequence the block goes on with while `RUN` holds an operation. Codec operations and `RELEASE` end when
they are accepted and are never found running. -/
def microOf : Instr → MicroOp
  | .writeCommand bytes => microWriteCommand bytes
  | .readRegister reg n => microReadRegister reg n
  | .setOperationMode mode => microSetOperationMode mode
  | .getPartId => microGetPartId
  | .getFirmwareVersion => microGetFirmwareVersion
  | .clearCommand => microClearCommand
  | .getEco2 => microGetEco2
  | .getTvoc => microGetTvoc
  | .getAirqualityIndex => microGetAirqualityIndex
  | .getEtoh => microGetEtoh
  | .getRawResistance => microGetRawResistance
  | .getStatus => microGetStatus
  | .getGroupData => microGetGroupData
  | .setTempRhComp celsius rhPercent => microSetTempRhComp celsius rhPercent
  | .getTempRhComp => microGetTempRhComp
  | .configInterruptPin config => microConfigInterruptPin config
  | .initializeSensor => microInitialize checkIdleReadback
  | .getMeasurements => microGetMeasurements
  | .release => microRelease
  | .decodeStatus _ | .decodeAqi _ | .decodeU16Le _ _ | .encodeTempComp _ | .decodeTempComp _
  | .decodeRawResistance _ | .icfgBuilder | .icfgActiveHigh _ | .icfgActiveLow _ | .icfgPushPull _ | .icfgOpenDrain _
  | .icfgOnNewData _ | .icfgOffNewData _ | .icfgOnNewGroupData _ | .icfgOffNewGroupData _ | .icfgEnableInterrupt _
  | .icfgDisableInterrupt _ => microNone

/-- Go on with the running operation. -/
def resume (op : Instr) (s : State) : StepOutcome := drive (microOf op) s.inputs s

/-- The refusal of a byte string that is no operation. `UnknownOp` comes first, then for a protocol operation
`Released`, then `BadOperand` (`60_exceptions.md` R281); a codec operation "can only be refused as `UnknownOp`". Log
entries 14, 15. -/
def refusalOf (life : Life) : DecodeError → RefusalReason
  | .noOpcode => .unknownOp
  | .unknownOpcode _ => .unknownOp
  | .truncated op | .overlong op =>
    if isProtocolOpcode op then (match life with | .released => .released | .active => .badOperand) else .unknownOp

/-- What a step does. -/
inductive Work where
  /-- run operation `i`, taken from the host port, in state `s` -/
  | operation (i : Instr) (s : State)
  /-- anything else is already done -/
  | settled (o : StepOutcome)

/-- Take the oldest waiting offer and decode it; a byte string that is no operation is refused (`60_exceptions.md`
R280). -/
def takeOffer (offer : List Byte) (s : State) : Work :=
  match decode offer with
  | .instr i => .operation i s
  | .reject e => .settled (.next (s.refuse (refusalOf s.life e)))

/-- The idle block takes an input: an offer reaches the host port, reset resets, an answer nobody asked for is not
taken (log entry 7). Without input nothing happens. -/
def takeInput (s : State) : StepOutcome :=
  match s.inputs with
  | [] => .next s
  | .offer o :: rest => .next ({ s with inputs := rest }.enqueue o)
  | .reset :: rest => .next { s with inputs := rest }.onReset
  | .answer _ :: rest => .next { s with inputs := rest }

/-- Find what a step does: go on with the running operation; else take the oldest waiting offer; else an input (log
entry 22). -/
def fetch (s : State) : Work :=
  match s.run with
  | .running op _ _ => .settled (resume op s)
  | .idle =>
    match s.hostPort with
    | o :: rest => takeOffer o { s with hostPort := rest }
    | [] => .settled (takeInput s)

/-- The host has offered the operation whose bits are `w`: it stands first at the host port of an idle block. -/
def offerTableWord (s : State) (nbits w : Nat) : State :=
  { s with run := .idle, pending := Option.none, hostPort := tableWordBytes nbits w :: s.hostPort }

end Sys2Proof.Machine
end

