-- ==== Sys2Proof/Machine/Step.lean ====
section
/-! DEFINITION. One step of the block. -/

namespace Sys2Proof.Machine

/-- One step: the operation the host offers is decoded and executed; a running operation goes on; an input is taken. -/
def step (s : State) : Host.Outcome State Fault Refusal :=
  match fetch s with
  | .operation i s' => exec i s'
  | .settled o => o

/-- The state in which the very next step runs the operation whose bits are `w`. Log entry 3. -/
def State.withFetchWord (s : State) (nbits w : Nat) : State := offerTableWord s nbits w

end Sys2Proof.Machine
end

