-- ==== Sys2Proof/Machine/Response.lean ====
section
/-! DEFINITION. The byte string of a response (`30_encoding.md` R83 to R86). -/

namespace Sys2Proof.Machine

/-- The code of an air-quality index (`30_encoding.md` R96). -/
def aqiCode : AirQualityIndex → Byte
  | .unavailable => 0
  | .aqi1 => 1
  | .aqi2 => 2
  | .aqi3 => 3
  | .aqi4 => 4
  | .unhealthy => 5
  | .invalidRange => 6

/-- A one-bit item as a byte. -/
def boolByte (b : Bool) : Byte := if b then 1 else 0

/-- The payload after tag 0x00 (`30_encoding.md` R86). -/
def encodeValue : Value → List Byte
  | .unit => []
  | .u8 v => [v]
  | .mode observed => [observed]
  | .u16 v => encodeU16Le v
  | .f32 bits => encodeF32Le bits
  | .bytes bs => bs
  | .version major minor build => [major, minor, build]
  | .status st =>
    [boolByte st.newGroupDataReady, boolByte st.newDataReady, validityCode st.validity, boolByte st.error,
      boolByte st.runningMode]
  | .aqi q => [aqiCode q]
  | .tempRh celsius rh => encodeF32Le celsius ++ encodeU16Le rh
  | .bool b => [boolByte b]
  | .measurements m =>
    encodeU16Le m.co2eqPpm ++ encodeU16Le m.tvocPpb ++ [aqiCode m.airQualityIndex] ++ encodeU16Le m.etoh ++
      encodeF32Le m.rawResistance

/-- The payload after tag 0x01 (`30_encoding.md` R84). -/
def encodeError : OpError → List Byte
  | .busError t => 0x01#8 :: t.bytes
  | .unexpectedChipId id => 0x02#8 :: encodeU16Le id
  | .opModeNotCorrect m => [0x03#8, m]

/-- The reason byte after tag 0x02 (`30_encoding.md` R85). -/
def refusalCode : RefusalReason → Byte
  | .unknownOp => 0x01#8
  | .badOperand => 0x02#8
  | .released => 0x03#8

/-- The byte string of a response (`30_encoding.md` R83). -/
def encodeResponse : Response → List Byte
  | .ok v => 0x00#8 :: encodeValue v
  | .err e => 0x01#8 :: encodeError e
  | .refused r => [0x02#8, refusalCode r]

/-- The responses among the events, as the bytes the host receives, oldest first. -/
def hostReceives : List Event → List (List Byte)
  | [] => []
  | .responded r :: rest => encodeResponse r :: hostReceives rest
  | .issued _ :: rest => hostReceives rest
  | .answered _ :: rest => hostReceives rest

end Sys2Proof.Machine
end

