-- ==== Sys2Proof/Safety.lean ====
section
/-! DEFINITION. The terms claims are stated in: port traces in the notation of `00_scope.md` R14, the state an
operation leaves behind, the invariant of reachable states, and what counts as a safe step. -/

namespace Sys2Proof.Safety

open Sys2Proof.Machine

/-- `W[...]` answered `Ok`: the bytes of a write to device `dev`, register address first. -/
def wrote (dev : Addr7) (bytes : List Byte) : List Event := [.issued (.busWrite dev bytes), .answered .wrote]

/-- `R[reg]xN -> bs`. -/
def gotBytes (dev : Addr7) (reg : Byte) (n : Nat) (bs : List Byte) : List Event :=
  [.issued (.busWriteRead dev [reg] n), .answered (.data bs)]

/-- `D(n)`, completed. -/
def waited (n : Nat) : List Event := [.issued (.delayMs n), .answered .elapsed]

/-- `W[...] -> Err(t)`. -/
def writeFailed (dev : Addr7) (bytes : List Byte) (t : BusErr) : List Event :=
  [.issued (.busWrite dev bytes), .answered (.err t)]

/-- `R[reg]xN -> Err(t)`. -/
def readFailed (dev : Addr7) (reg : Byte) (n : Nat) (t : BusErr) : List Event :=
  [.issued (.busWriteRead dev [reg] n), .answered (.err t)]

/-- The block accepts a protocol operation: nothing runs and the ports are its own (`41_bus_primitives.md` R160,
`10_state.md` R22). -/
def accepting (s : State) : Prop := s.run = .idle ∧ s.life = .active

/-- `s` after an operation that ended at request `k`, having taken all inputs before `rest`, with port events `es` and
response `r`. `SEQ`, which means nothing while no operation runs, is where `41_bus_primitives.md` R160, R161 leave it:
the index of the last request, 0 if there was none (log entry 20). Everything not named here is as it was in `s`. -/
def ended (s : State) (k : Nat) (rest : List Input) (es : List Event) (r : Response) : State :=
  { s with seq := k, run := .idle, pending := none, inputs := rest, trace := s.trace ++ es ++ [.responded r] }

/-- `s` after a response that needed no request: a codec result or a refusal. Everything else is as it was in `s`. -/
def answeredAtOnce (s : State) (r : Response) : State := { s with trace := s.trace ++ [.responded r] }

/-- The value `b0 + 256 * b1` of the first two of the bytes read (`20_memory.md` R57). -/
def u16Of : List Byte → U16
  | b0 :: b1 :: _ => BitVec.ofNat 16 (b0.toNat + 256 * b1.toNat)
  | _ => 0

/-- An operation that is one register read plus a decode of the bytes (`42_accessors.md` section 2): with a good answer
it responds `Ok(f bs)`, with a transport error `BusError(t)`, and after `RELEASE` it is refused. In each case nothing
else happens and nothing else changes. -/
def SingleRead (i : Instr) (reg : Byte) (n : Nat) (f : List Byte → Value) : Prop :=
  (∀ (s : State) (bs : List Byte) (rest : List Input),
    accepting s → bs.length = n → s.inputs = .answer (.data bs) :: rest →
      exec i s = .next (ended s 0 rest (gotBytes s.devAddr reg n bs) (.ok (f bs)))) ∧
  (∀ (s : State) (t : BusErr) (rest : List Input),
    accepting s → s.inputs = .answer (.err t) :: rest →
      exec i s = .next (ended s 0 rest (readFailed s.devAddr reg n t) (.err (.busError t)))) ∧
  (∀ s : State, s.run = .idle → s.life = .released →
      exec i s = .next (answeredAtOnce s (.refused .released)))

/-- An operation answered with `v` as soon as it is accepted, whatever `LIFE` is (`40_codec.md` R120). -/
def AnsweredAtOnce (i : Instr) (v : Value) : Prop :=
  ∀ s : State, s.run = .idle → exec i s = .next (answeredAtOnce s (.ok v))

/-- The good answers to a request: success, and for a read exactly the bytes asked for (`20_memory.md` R50, R51,
`60_exceptions.md` R292). -/
def goodAnswer (q : Request) (a : Answer) : Prop :=
  match q with
  | .busWrite _ _ => a = .wrote
  | .busWriteRead _ _ n => ∃ bs, a = .data bs ∧ bs.length = n
  | .delayMs _ => a = .elapsed

/-- The answer comes on the bus port while a bus request is outstanding, and has not the shape of an answer to it. -/
def misfits (p : Option Request) (a : Answer) : Prop :=
  (∃ dev bytes bs, p = some (.busWrite dev bytes) ∧ a = .data bs) ∨
  ∃ dev wbytes n, p = some (.busWriteRead dev wbytes n) ∧ (a = .wrote ∨ ∃ bs, a = .data bs ∧ bs.length ≠ n)

/-- The answer comes on a port that has no request outstanding. -/
def unasked (p : Option Request) (a : Answer) : Prop :=
  match p with
  | none => True
  | some (.busWrite _ _) => a = .elapsed
  | some (.busWriteRead _ _ _) => a = .elapsed
  | some (.delayMs _) => a ≠ .elapsed

/-- `SCR` after a good answer: the bytes read, if there are any (`41_bus_primitives.md` R161). -/
def scrAfter (a : Answer) (scr : List Byte) : List Byte :=
  match a with
  | .data bs => bs
  | .wrote | .elapsed | .err _ => scr

/-- The next step of `s` works on operation `i`: it goes on with it, or takes it off the host port. -/
def worksOn (s : State) (i : Instr) : Prop :=
  (∃ scr acc, s.run = .running i scr acc) ∨
  (s.run = .idle ∧ ∃ o rest, s.hostPort = o :: rest ∧ decode o = .instr i)

/-- The event is a response. -/
def isResponse : Event → Bool
  | .responded _ => true
  | .issued _ => false
  | .answered _ => false

/-- The event is a request. -/
def isRequest : Event → Bool
  | .issued _ => true
  | .responded _ => false
  | .answered _ => false

/-- From `s` to `s'` the trace is only extended, and either the block is idle again and exactly one response was sent,
the last event, or an operation is running and none was sent (`00_scope.md` R12, `41_bus_primitives.md` R160). -/
def respondsOnceOrHolds (s s' : State) : Prop :=
  ∃ es : List Event, s'.trace = s.trace ++ es ∧
    ((s'.run = .idle ∧ ∃ (es' : List Event) (r : Response), es = es' ++ [.responded r] ∧
        ∀ e ∈ es', isResponse e = false) ∨
     (s'.busy = true ∧ ∀ e ∈ es, isResponse e = false))

/-- A request in the form every request of the block has: to `dev`, never an empty write, one address byte and at least
one byte read (`20_memory.md` R50, R51, `30_encoding.md` R87, R88), and only the delays of `60_exceptions.md` R292. -/
def properRequest (dev : Addr7) : Request → Bool
  | .busWrite addr7 bytes => addr7 = dev && decide (2 ≤ bytes.length)
  | .busWriteRead addr7 wbytes n => addr7 = dev && decide (wbytes.length = 1) && decide (1 ≤ n)
  | .delayMs n => n = 10 || n = 50 || n = 150

/-- An event whose request, if it is one, is proper. -/
def properEvent (dev : Addr7) : Event → Bool
  | .issued q => properRequest dev q
  | .answered _ => true
  | .responded _ => true

/-- `INIT_STATE` while `INITIALIZE` waits for the answer to request `k` (`43_initialize.md` R231, R242). -/
def initStateAt (k : Nat) : InitState :=
  if k ≤ 2 then .start
  else if k ≤ 4 then .idleSet
  else if k ≤ 9 then .idVerified
  else if k ≤ 11 then .cleared
  else if k ≤ 15 then .firmwareRead
  else .standardSet

/-- `INIT_STATE` is one of the values an `INITIALIZE` that has ended, or reset, leaves (`43_initialize.md` R242). -/
def initSettled : InitState → Bool
  | .start | .ready | .chipIdMismatch | .modeMismatch | .unreachable | .busFault => true
  | .idleSet | .idVerified | .cleared | .firmwareRead | .standardSet => false

/-- While an operation runs: it was accepted with the ports owned and its operands in their domain; `SEQ` is an index
of its table and the request with that index is outstanding (`10_state.md` R24, `41_bus_primitives.md` R160, R161);
`INIT_STATE` is the one of R231 if the operation is `INITIALIZE`. -/
def runningInv (s : State) (op : Instr) : Prop :=
  s.life = .active ∧ operandOk op = true ∧
    (∃ q, (microOf op).table[s.seq]? = some q ∧ s.pending = some (toRequest s.devAddr q)) ∧
    (if op = .initializeSensor then s.initState = initStateAt s.seq else initSettled s.initState = true)

/-- The invariant of the block's state: `DEVADDR` is one of its two values (`10_state.md` R21); an idle block has no
request outstanding (R48) and a settled `INIT_STATE`; a running operation is where its table says. -/
def Inv (s : State) : Prop :=
  (s.devAddr = 0x52#7 ∨ s.devAddr = 0x53#7) ∧
    match s.run with
    | .idle => s.pending = none ∧ initSettled s.initState = true
    | .running op _ _ => runningInv s op

/-- `r` is the number `x` rounded once to binary32, to nearest, ties to even (`00_scope.md` R15). It is no NaN; it is an
infinity, of the sign of `x`, only where `x` is at least half a unit past the largest finite value; a finite result is
in the normal form of `unpack`, has the sign of `x`, lies within half a unit in the last place of `x`, and is even where
it lies half a unit away. Just below a power of two the binary32 values lie twice as close: there it is within a quarter
of the result's unit. -/
def NearestEven (x : Rat) (r : FVal) : Prop :=
  r ≠ .nan ∧
  (∀ s : Bool, r = .inf s → (2 ^ 25 - 1 : Rat) * 2 ^ (103 : Int) ≤ |x| ∧ s = decide (x < 0)) ∧
  (∀ (s : Bool) (m : Nat) (t : Int), r = .fin s m t →
    m < 2 ^ 24 ∧ -149 ≤ t ∧ t ≤ 104 ∧ (2 ^ 23 ≤ m ∨ t = -149) ∧ (x ≠ 0 → s = decide (x < 0)) ∧
    |x - (signed s m : Rat) * 2 ^ t| ≤ 2 ^ t / 2 ∧
    (|x - (signed s m : Rat) * 2 ^ t| = 2 ^ t / 2 → m % 2 = 0) ∧
    (m = 2 ^ 23 → -149 < t → |x| < (2 : Rat) ^ (23 : Int) * 2 ^ t → |x - (signed s m : Rat) * 2 ^ t| ≤ 2 ^ t / 4))

/-- A safe step: the block goes on. -/
def goesOn (o : StepOutcome) : Prop := ∃ s', o = .next s'

/-- `k` steps, stopping at the first fault or refusal. -/
def runSteps : Nat → State → StepOutcome
  | 0, s => .next s
  | k + 1, s =>
    match step s with
    | .next s' => runSteps k s'
    | .fault r => .fault r
    | .refused r => .refused r

/-- The nineteen requests of `INITIALIZE` to device `dev`, written out from the table of `43_initialize.md` R231. -/
def initRequests (dev : Addr7) : List Request :=
  [.busWrite dev [0x10, 0x01], .delayMs 50, .busWriteRead dev [0x10] 1, .busWriteRead dev [0x20] 1,
    .busWriteRead dev [0x00] 2, .delayMs 50, .busWrite dev [0x12, 0x00], .busWrite dev [0x12, 0xCC], .delayMs 50,
    .busWriteRead dev [0x20] 1, .busWrite dev [0x12, 0x0E], .busWriteRead dev [0x48] 8, .delayMs 10,
    .busWrite dev [0x10, 0x02], .delayMs 50, .busWriteRead dev [0x10] 1, .delayMs 150, .busWriteRead dev [0x20] 1,
    .busWriteRead dev [0x10] 1]

/-- The requests of an operation to device `dev`, in the order of `SEQ`, written out from the operation's rule
(`41_bus_primitives.md` R162, R165; `42_accessors.md` R180 to R210; `43_initialize.md` R231). `RELEASE` and the codec
operations have none. -/
def requestsOf (dev : Addr7) : Instr → List Request
  | .writeCommand bytes => [.busWrite dev (0x12 :: bytes)]
  | .readRegister reg n => [.busWriteRead dev [reg] n.toNat]
  | .setOperationMode mode => [.busWrite dev [0x10, mode], .delayMs 50, .busWriteRead dev [0x10] 1]
  | .getPartId => [.busWriteRead dev [0x00] 2]
  | .getFirmwareVersion => [.busWrite dev [0x12, 0x0E], .busWriteRead dev [0x48] 8]
  | .clearCommand => [.busWrite dev [0x12, 0x00], .busWrite dev [0x12, 0xCC]]
  | .getEco2 => [.busWriteRead dev [0x24] 2]
  | .getTvoc => [.busWriteRead dev [0x22] 2]
  | .getAirqualityIndex => [.busWriteRead dev [0x21] 1]
  | .getEtoh => [.busWriteRead dev [0x22] 2]
  | .getRawResistance => [.busWriteRead dev [0x4E] 2]
  | .getStatus => [.busWriteRead dev [0x20] 1]
  | .getGroupData => [.busWriteRead dev [0x48] 8]
  | .setTempRhComp c rh =>
    [.busWrite dev [0x13, BitVec.ofNat 8 (tempEncode c).toNat, BitVec.ofNat 8 ((tempEncode c).toNat / 256)],
      .busWrite dev [0x15, BitVec.ofNat 8 rh.toNat, BitVec.ofNat 8 (rh.toNat / 256)]]
  | .getTempRhComp => [.busWriteRead dev [0x30] 2, .busWriteRead dev [0x32] 2]
  | .configInterruptPin config => [.busWrite dev [0x11, config], .busWriteRead dev [0x11] 1]
  | .initializeSensor => initRequests dev
  | .getMeasurements =>
    [.busWriteRead dev [0x24] 2, .busWriteRead dev [0x22] 2, .busWriteRead dev [0x21] 1, .busWriteRead dev [0x22] 2,
      .busWriteRead dev [0x4E] 2]
  | .release => []
  | .decodeStatus _ | .decodeAqi _ | .decodeU16Le _ _ | .encodeTempComp _ | .decodeTempComp _
  | .decodeRawResistance _ | .icfgBuilder | .icfgActiveHigh _ | .icfgActiveLow _ | .icfgPushPull _ | .icfgOpenDrain _
  | .icfgOnNewData _ | .icfgOffNewData _ | .icfgOnNewGroupData _ | .icfgOffNewGroupData _ | .icfgEnableInterrupt _
  | .icfgDisableInterrupt _ => []

/-- An answer with which `INITIALIZE` goes on after request `k` (`43_initialize.md` R231): success, and where the value
is compared, the expected part ID or the Standard mode. -/
def initGoodAnswer (k : Nat) (q : Request) (a : Answer) : Prop :=
  goodAnswer q a ∧ (k = 4 → a = .data [0x60, 0x01]) ∧ (k = 15 → a = .data [0x02])

/-- The events of the first five requests of `INITIALIZE`, the part-ID read answered with `id`. -/
def initUpToPartId (dev : Addr7) (m1 s1 : Byte) (id : List Byte) : List Event :=
  wrote dev [0x10, 0x01] ++ waited 50 ++ gotBytes dev 0x10 1 [m1] ++ gotBytes dev 0x20 1 [s1] ++
    gotBytes dev 0x00 2 id

/-- The answers to the first five requests of `INITIALIZE`. -/
def initAnswersUpToPartId (m1 s1 : Byte) (id : List Byte) : List Input :=
  [.answer .wrote, .answer .elapsed, .answer (.data [m1]), .answer (.data [s1]), .answer (.data id)]

/-- The events of requests 5 to 15 of `INITIALIZE`, with firmware window `fw` and mode read-back `m`. -/
def initUpToStandard (dev : Addr7) (s2 : Byte) (fw : List Byte) (m : Byte) : List Event :=
  waited 50 ++ wrote dev [0x12, 0x00] ++ wrote dev [0x12, 0xCC] ++ waited 50 ++ gotBytes dev 0x20 1 [s2] ++
    wrote dev [0x12, 0x0E] ++ gotBytes dev 0x48 8 fw ++ waited 10 ++ wrote dev [0x10, 0x02] ++ waited 50 ++
    gotBytes dev 0x10 1 [m]

/-- The answers to requests 5 to 15 of `INITIALIZE`. -/
def initAnswersUpToStandard (s2 : Byte) (fw : List Byte) (m : Byte) : List Input :=
  [.answer .elapsed, .answer .wrote, .answer .wrote, .answer .elapsed, .answer (.data [s2]), .answer .wrote,
    .answer (.data fw), .answer .elapsed, .answer .wrote, .answer .elapsed, .answer (.data [m])]

end Sys2Proof.Safety
end

