-- ==== Sys2Proof/Certificates/Slice0/Obligations.lean ====
section
/-! DEFINITION. The statements for the provers. Each formalises numbered rules of spec/; where a statement rests on a
choice of the model or on an inference, its docstring names the log entry. -/

open Sys2Proof Sys2Proof.Machine Sys2Proof.Safety

/-! ## The host port's encoding -/

/-- `30_encoding.md` R80 to R82: decoding the byte string of an operation gives the operation, for every operand its
format admits. -/
def Obligations.DecodeEncodeRoundTrip : Prop :=
  ∀ i : Instr, i.wellFormed = true → decode (encode i) = .instr i

/-- `30_encoding.md` R80 to R82: a byte string that decodes is the byte string of the operation it decodes to; so no two
byte strings are one operation, and a truncated or over-long string is none. -/
def Obligations.DecodedBytesEncodeBack : Prop :=
  ∀ (bytes : List Byte) (i : Instr), decode bytes = .instr i → i.wellFormed = true ∧ encode i = bytes

/-- The byte strings that `30_encoding.md` R102 and `95_test_vectors.md` PROG2 write out decode to the operations they
stand for. -/
def Obligations.SpecExampleStringsDecode : Prop :=
  decode [0x03, 0x01] = .instr (.setOperationMode 0x01) ∧
  decode [0x02, 0x20, 0x01] = .instr (.readRegister 0x20 0x01) ∧
  decode [0x01, 0x01, 0x0E] = .instr (.writeCommand [0x0E]) ∧
  decode [0x0E, 0x00, 0x00, 0xC8, 0x41, 0x32, 0x00] = .instr (.setTempRhComp 0x41C80000 50) ∧
  decode [0x22, 0x60, 0x01] = .instr (.decodeU16Le 0x60 0x01) ∧
  decode [0x23, 0x00, 0x00, 0xB4, 0x41] = .instr (.encodeTempComp 0x41B40000) ∧
  decode [0x24, 0xE9, 0x49] = .instr (.decodeTempComp 18921) ∧
  decode [0x11] = .instr .initializeSensor

/-- `30_encoding.md` R99: every operation code outside the map is refused with `UnknownOp`, with no request and no
change of state (the offer is taken off the host port). That this happens before the block looks at the next input, a
reset among them, is the model's choice (log entry 22, DESIGN CHOICE). -/
def Obligations.IllegalOpcodesRefused : Prop :=
  ∀ (s : State) (op : Byte) (args : List Byte) (rest : List (List Byte)),
    (op.toNat = 0 ∨ (0x14 ≤ op.toNat ∧ op.toNat ≤ 0x1F) ∨ (0x26 ≤ op.toNat ∧ op.toNat ≤ 0x2F) ∨ 0x3B ≤ op.toNat) →
    s.run = .idle → s.hostPort = (op :: args) :: rest →
      step s = .next (answeredAtOnce { s with hostPort := rest } (.refused .unknownOp))

/-- What the model does with a byte string whose code is in the map and whose operand bytes are too few or too many:
the order of `60_exceptions.md` R281, as `93_implementation_defined.md` U6 is read in log entry 14 (DEDUCED); and with
an offer of no byte at all (log entry 15, DEDUCED). That a waiting offer is taken before the next input is log entry
22. -/
def Obligations.MalformedStringsRefused : Prop :=
  (∀ (s : State) (o : List Byte) (rest : List (List Byte)) (op : Byte),
    (decode o = .reject (.truncated op) ∨ decode o = .reject (.overlong op)) →
    s.run = .idle → s.hostPort = o :: rest →
      step s = .next (answeredAtOnce { s with hostPort := rest }
        (.refused (if 1 ≤ op.toNat ∧ op.toNat ≤ 0x13 then (if s.life = .released then .released else .badOperand)
          else .unknownOp)))) ∧
  (∀ (s : State) (rest : List (List Byte)), s.run = .idle → s.hostPort = [] :: rest →
      step s = .next (answeredAtOnce { s with hostPort := rest } (.refused .unknownOp)))

/-- `30_encoding.md` R83, R84, R86: the byte string of a response: the tag, then the payload, little-endian; and the
reason codes of R85. -/
def Obligations.ResponseBytesFollowTheLayout : Prop :=
  (∀ v : Value, encodeResponse (.ok v) = 0x00 :: encodeValue v) ∧
  (∀ t : BusErr, encodeResponse (.err (.busError t)) = [0x01, 0x01] ++ t.bytes) ∧
  (∀ id : U16, encodeResponse (.err (.unexpectedChipId id)) =
    [0x01, 0x02, BitVec.ofNat 8 id.toNat, BitVec.ofNat 8 (id.toNat / 256)]) ∧
  (∀ m : Byte, encodeResponse (.err (.opModeNotCorrect m)) = [0x01, 0x03, m]) ∧
  encodeResponse (.refused .unknownOp) = [0x02, 0x01] ∧
  encodeResponse (.refused .badOperand) = [0x02, 0x02] ∧
  encodeResponse (.refused .released) = [0x02, 0x03] ∧
  encodeValue .unit = [] ∧
  encodeValue (.bool true) = [0x01] ∧ encodeValue (.bool false) = [0x00] ∧
  (∀ b : Byte, encodeValue (.u8 b) = [b]) ∧
  (∀ b : Byte, encodeValue (.mode b) = [b]) ∧
  (∀ v : U16, encodeValue (.u16 v) = [BitVec.ofNat 8 v.toNat, BitVec.ofNat 8 (v.toNat / 256)]) ∧
  (∀ x : F32, encodeValue (.f32 x) = [BitVec.ofNat 8 x.toNat, BitVec.ofNat 8 (x.toNat / 2 ^ 8),
    BitVec.ofNat 8 (x.toNat / 2 ^ 16), BitVec.ofNat 8 (x.toNat / 2 ^ 24)]) ∧
  (∀ bs : List Byte, encodeValue (.bytes bs) = bs) ∧
  (∀ a b c : Byte, encodeValue (.version a b c) = [a, b, c]) ∧
  (∀ (g n e r : Bool) (v : Validity), encodeValue (.status ⟨g, n, v, e, r⟩) =
    [if g then 1 else 0, if n then 1 else 0,
      (match v with
        | .normalOperation => 0 | .warmupPhase => 1 | .initialStartupPhase => 2 | .invalidOutput => 3),
      if e then 1 else 0, if r then 1 else 0]) ∧
  [AirQualityIndex.unavailable, .aqi1, .aqi2, .aqi3, .aqi4, .unhealthy, .invalidRange].map
    (fun q => encodeValue (.aqi q)) = [[0], [1], [2], [3], [4], [5], [6]] ∧
  (∀ (x : F32) (h : U16), encodeValue (.tempRh x h) = encodeValue (.f32 x) ++ encodeValue (.u16 h)) ∧
  (∀ (c t e : U16) (q : AirQualityIndex) (r : F32), encodeValue (.measurements ⟨c, t, q, e, r⟩) =
    encodeValue (.u16 c) ++ encodeValue (.u16 t) ++ encodeValue (.aqi q) ++ encodeValue (.u16 e) ++
      encodeValue (.f32 r))

/-! ## The step -/

/-- A step of an idle block runs the operation the oldest offer decodes to, the offer taken off the host port
(`41_bus_primitives.md` R160 (1)). That it does so before it looks at the next input, a reset among them, is the
model's choice (log entry 22, DESIGN CHOICE). -/
def Obligations.StepRunsTheOfferedOperation : Prop :=
  ∀ (s : State) (o : List Byte) (rest : List (List Byte)) (i : Instr),
    s.run = .idle → s.hostPort = o :: rest → decode o = .instr i →
      i.wellFormed = true ∧ step s = exec i { s with hostPort := rest }

/-- An operation word offered with `withFetchWord` is the one the very next step runs (log entry 3),
before the block looks at the next input (log entry 22, DESIGN CHOICE). -/
def Obligations.OfferedTableWordRunsNext : Prop :=
  ∀ (s : State) (nbits w : Nat) (i : Instr), decodeTableWord nbits w = some i →
    step (s.withFetchWord nbits w) = exec i { s with run := .idle, pending := none }

/-- `60_exceptions.md` R283: while an operation runs, an operation offered is neither accepted nor refused; it waits,
and nothing else changes. That it waits behind those that wait already, and that exec of an operation on a busy block
is such an offer, is the model's choice (log entry 20, DEDUCED). -/
def Obligations.BusyBlockHoldsEveryOffer : Prop :=
  (∀ (s : State) (i : Instr), s.busy = true →
    exec i s = .next { s with hostPort := s.hostPort ++ [encode i] }) ∧
  (∀ (s : State) (offers : List (List Byte)), s.busy = true → s.inputs = offers.map Input.offer →
    step s = .next { s with hostPort := s.hostPort ++ offers, inputs := [] })

/-- `60_exceptions.md` R284, R285: a block whose request is never answered stays as it is, for ever. -/
def Obligations.HeldBlockStaysHeld : Prop :=
  ∀ (s : State) (n : Nat), s.busy = true → s.inputs = [] → runSteps n s = .next s

/-- The hold of `60_exceptions.md` R284 loses nothing: an operation held for want of input goes on, when the rest of the
inputs come, exactly as if they had been there from the start; whether it was already running when the step began, or
was accepted in that step (taken off the host port, or by exec on an idle block). So an offer, a reset or an answer
nobody asked for that comes before or between the answers, in the accepting step too, does what
`BusyBlockHoldsEveryOffer`, `ResetGivesTheResetValues` and `StepsStopOnlyOnABrokenTransport` say of the held block. That the
accepting step accepts a waiting offer before it looks at the next input, a reset among them, is the model's choice (log
entry 22, DESIGN CHOICE). -/
def Obligations.AnswersMayComeLater : Prop :=
  (∀ (s s1 : State) (xs ys : List Input), step { s with inputs := xs } = .next s1 → s1.busy = true →
      step { s with inputs := xs ++ ys } = step { s1 with inputs := ys }) ∧
  (∀ (i : Instr) (s s1 : State) (xs ys : List Input), s.run = .idle →
    exec i { s with inputs := xs } = .next s1 → s1.busy = true →
      exec i { s with inputs := xs ++ ys } = step { s1 with inputs := ys })

/-! ## Reset -/

/-- `10_state.md` R48, `70_reset_and_hazards.md` R310, R311: reset, of a running or of an idle block, gives `DEVADDR`
from the strap, `LIFE` Active, `INIT_STATE` Start, `RUN` Idle, nothing outstanding; it issues no request and sends no
response. -/
def Obligations.ResetGivesTheResetValues : Prop :=
  ∀ (s : State) (rest : List Input), s.inputs = .reset :: rest → (s.busy = true ∨ s.hostPort = []) →
    ∃ t : State, step s = .next t ∧
      (s.strap = .primary → t.devAddr = 0x52#7) ∧ (s.strap = .secondary → t.devAddr = 0x53#7) ∧
      t.life = .active ∧ t.initState = .start ∧ initStateCode t.initState = 0 ∧ t.run = .idle ∧ t.busy = false ∧
      t.pending = none ∧ t.trace = s.trace ∧ t.strap = s.strap ∧ t.inputs = rest

/-- `State.reset` holds the values of `10_state.md` R48. That the strap is at Primary is the model's choice (log entry
2). -/
def Obligations.ResetStateValues : Prop :=
  State.reset.strap = .primary ∧ State.reset.devAddr = 0x52#7 ∧ State.reset.life = .active ∧
  State.reset.initState = .start ∧ State.reset.run = .idle ∧ State.reset.busy = false ∧
  State.reset.pending = none ∧ State.reset.hostPort = [] ∧ State.reset.trace = []

/-! ## Codec operations -/

/-- `40_codec.md` R126. -/
def Obligations.DecodeStatusUnpacksTheByte : Prop :=
  ∀ b : Byte, encode (.decodeStatus b) = [0x20, b] ∧
    AnsweredAtOnce (.decodeStatus b)
      (.status
        { newGroupDataReady := decide (b.toNat % 2 = 1)
          newDataReady := decide (b.toNat / 2 % 2 = 1)
          validity :=
            if b.toNat / 4 % 4 = 0 then .normalOperation
            else if b.toNat / 4 % 4 = 1 then .warmupPhase
            else if b.toNat / 4 % 4 = 2 then .initialStartupPhase
            else .invalidOutput
          error := decide (b.toNat / 64 % 2 = 1)
          runningMode := decide (b.toNat / 128 % 2 = 1) })

/-- `40_codec.md` R127: codes 0 to 5 give their variant, every byte from 6 to 255 gives `InvalidRange`. -/
def Obligations.DecodeAqiByWholeByte : Prop :=
  (∀ b : Byte, encode (.decodeAqi b) = [0x21, b]) ∧
  AnsweredAtOnce (.decodeAqi 0) (.aqi .unavailable) ∧ AnsweredAtOnce (.decodeAqi 1) (.aqi .aqi1) ∧
  AnsweredAtOnce (.decodeAqi 2) (.aqi .aqi2) ∧ AnsweredAtOnce (.decodeAqi 3) (.aqi .aqi3) ∧
  AnsweredAtOnce (.decodeAqi 4) (.aqi .aqi4) ∧ AnsweredAtOnce (.decodeAqi 5) (.aqi .unhealthy) ∧
  ∀ b : Byte, 6 ≤ b.toNat → AnsweredAtOnce (.decodeAqi b) (.aqi .invalidRange)

/-- `40_codec.md` R128: `b0 + 256 * b1`. -/
def Obligations.DecodeU16LeAssembles : Prop :=
  ∀ b0 b1 : Byte, encode (.decodeU16Le b0 b1) = [0x22, b0, b1] ∧
    AnsweredAtOnce (.decodeU16Le b0 b1) (.u16 (BitVec.ofNat 16 (b0.toNat + 256 * b1.toNat)))

/-- `40_codec.md` R129, R130: the temperature codec operations answer with the rule's formula in binary32 (the spec's
decision D15, the constant 0x43889333 of D15), for every operand. -/
def Obligations.TempCompOperationsAnswer : Prop :=
  (∀ c : F32, AnsweredAtOnce (.encodeTempComp c)
    (.u16 (f32ToU16TruncSat (fmul32 (fadd32 (unpack c) (unpack 0x43889333#32)) (unpack 0x42800000#32))))) ∧
  ∀ raw : U16, AnsweredAtOnce (.decodeTempComp raw)
    (.f32 (pack (fsub32 (fdiv32 (u16ToF32 raw) (unpack 0x42800000#32)) (unpack 0x43889333#32))))

/-- The corner cases of `40_codec.md` R129: NaN gives 0, infinities saturate, everything at or below the negated
constant gives 0, everything from binary32 750.85 (0x443BB666) upward gives 65535 (the spec's decision D16, log entry
18). -/
def Obligations.EncodeTempCompSaturates : Prop :=
  ∀ c : F32,
    (unpack c = .nan → tempEncode c = 0) ∧ (unpack c = .inf true → tempEncode c = 0) ∧
    (unpack c = .inf false → tempEncode c = 65535) ∧
    ∀ v : Rat, f32Value c = some v →
      (v ≤ -(8950579 / 32768) → tempEncode c = 0) ∧
      (∀ u : Rat, f32Value 0x443BB666#32 = some u → u ≤ v → tempEncode c = 65535)

/-- The inference of `40_codec.md` R130: the decoded temperature is finite and strictly increasing. -/
def Obligations.DecodeTempCompIsIncreasing : Prop :=
  ∀ a b : U16, a.toNat < b.toNat →
    ∃ va vb : Rat, f32Value (tempDecode a) = some va ∧ f32Value (tempDecode b) = some vb ∧ va < vb

/-- `40_codec.md` R145, the spec's own inference: for every binary32 value from -20 to 60, the round trip through the
temperature codec stays within the derived bounds, and so within 1/64. -/
def Obligations.TempCompRoundTrip : Prop :=
  ∀ (c : F32) (t : Rat), f32Value c = some t → -20 ≤ t → t ≤ 60 →
    ∃ d : Rat, f32Value (tempDecode (tempEncode c)) = some d ∧
      -(1 / 64 - 1 / 2 ^ 17) ≤ d - t ∧ d - t ≤ 1 / 2 ^ 16

/-! ## Binary32 arithmetic -/

/-- `00_scope.md` R15, the one rounding of `(-1)^neg * n * 2^e`: to nearest, ties to even, in the sense of
`NearestEven`; a finite result keeps the sign, that of a zero too. -/
def Obligations.RoundingIsNearestEven : Prop :=
  ∀ (neg : Bool) (n : Nat) (e : Int),
    NearestEven ((if neg then -1 else 1) * (n : Rat) * 2 ^ e) (roundTo neg n e) ∧
    ∀ (s : Bool) (m : Nat) (t : Int), roundTo neg n e = .fin s m t → s = neg

/-- `00_scope.md` R15: on finite operands, a sum, a difference, a product and a quotient by a divisor that is not zero
are each the exact result rounded once, to nearest, ties to even, in the sense of `NearestEven`: never NaN, infinite
only from the overflow threshold up. Exact zeros have the signs IEEE-754 gives them: a zero sum is +0 unless both
operands are -0, and a product or quotient takes the exclusive or of the signs. -/
def Obligations.Binary32OperationsRoundOnce : Prop :=
  ∀ (p q : F32) (x y : Rat), f32Value p = some x → f32Value q = some y →
    NearestEven (x + y) (fadd32 (unpack p) (unpack q)) ∧
    (x + y = 0 → fadd32 (unpack p) (unpack q) = .fin (p.getLsbD 31 && q.getLsbD 31) 0 (-149)) ∧
    NearestEven (x - y) (fsub32 (unpack p) (unpack q)) ∧
    (x - y = 0 → fsub32 (unpack p) (unpack q) = .fin (p.getLsbD 31 && !q.getLsbD 31) 0 (-149)) ∧
    NearestEven (x * y) (fmul32 (unpack p) (unpack q)) ∧
    (∀ (s : Bool) (m : Nat) (t : Int), fmul32 (unpack p) (unpack q) = .fin s m t →
      s = (p.getLsbD 31 ^^ q.getLsbD 31)) ∧
    (y ≠ 0 → NearestEven (x / y) (fdiv32 (unpack p) (unpack q)) ∧
      ∀ (s : Bool) (m : Nat) (t : Int), fdiv32 (unpack p) (unpack q) = .fin s m t →
        s = (p.getLsbD 31 ^^ q.getLsbD 31))

/-- `00_scope.md` R17: NaN gives 0; otherwise the value truncated toward zero, 0 below 0, 65535 above 65535 (log entry
18). -/
def Obligations.TruncationSaturates : Prop :=
  f32ToU16TruncSat .nan = 0 ∧ f32ToU16TruncSat (.inf false) = 65535 ∧ f32ToU16TruncSat (.inf true) = 0 ∧
  ∀ (x : FVal) (v : Rat), valueOf x = some v →
    (v < 0 → f32ToU16TruncSat x = 0) ∧
    (0 ≤ v → ⌊v⌋ ≤ 65535 → ((f32ToU16TruncSat x).toNat : Int) = ⌊v⌋) ∧
    (65535 < ⌊v⌋ → f32ToU16TruncSat x = 65535)

/-- Property P1 of `40_codec.md` R131 through R132: `raw = 2048 k` gives exactly `2^k`, for `k` from 0 to 31. -/
def Obligations.RawResistanceExactPowers : Prop :=
  ∀ k : Nat, k ≤ 31 →
    AnsweredAtOnce (.decodeRawResistance (BitVec.ofNat 16 (2048 * k))) (.f32 (BitVec.ofNat 32 ((127 + k) * 2 ^ 23))) ∧
    f32Value (BitVec.ofNat 32 ((127 + k) * 2 ^ 23)) = some (2 ^ k)

/-- Property P3 of `40_codec.md` R131, the spec's decided default (log entry 11): for every `raw` the operation answers
with the binary32 value `m * 2^(raw/2048 - 23)` (integer quotient) nearest to the real `2^(raw/2048)`: with
`f = raw mod 2048`, `m - 1/2 < 2^(23 + f/2048) < m + 1/2`, said with 2048th powers of doubled terms. -/
def Obligations.RawResistanceIsNearest : Prop :=
  ∀ raw : U16, ∃ (bits : F32) (m : Nat),
    AnsweredAtOnce (.decodeRawResistance raw) (.f32 bits) ∧
    f32Value bits = some ((m : Rat) * (2 : Rat) ^ ((raw.toNat / 2048 : Nat) - 23 : Int)) ∧
    2 ^ 23 ≤ m ∧ m < 2 ^ 24 ∧
    (2 * m - 1) ^ 2048 < 2 ^ (24 * 2048 + raw.toNat % 2048) ∧
    2 ^ (24 * 2048 + raw.toNat % 2048) < (2 * m + 1) ^ 2048

/-! ## The interrupt-pin configuration builder -/

/-- `40_codec.md` R135, R136. -/
def Obligations.PolarityTogglesSetAndClearBit6 : Prop :=
  ∀ v : Byte,
    encode (.icfgActiveHigh v) = [0x31, v] ∧ AnsweredAtOnce (.icfgActiveHigh v) (.u8 (v ||| 0x40)) ∧
    encode (.icfgActiveLow v) = [0x32, v] ∧ AnsweredAtOnce (.icfgActiveLow v) (.u8 (v &&& 0xBF))

/-- `40_codec.md` R134, R137 to R144: the start value is the spec's inference, the bits of these toggles are the spec's
from general knowledge (log entry 13). -/
def Obligations.OtherBuilderOperationsAnswer : Prop :=
  encode .icfgBuilder = [0x30] ∧ AnsweredAtOnce .icfgBuilder (.u8 0x00) ∧
  ∀ v : Byte,
    encode (.icfgPushPull v) = [0x33, v] ∧ AnsweredAtOnce (.icfgPushPull v) (.u8 (v ||| 0x20)) ∧
    encode (.icfgOpenDrain v) = [0x34, v] ∧ AnsweredAtOnce (.icfgOpenDrain v) (.u8 (v &&& 0xDF)) ∧
    encode (.icfgOnNewData v) = [0x35, v] ∧ AnsweredAtOnce (.icfgOnNewData v) (.u8 (v ||| 0x02)) ∧
    encode (.icfgOffNewData v) = [0x36, v] ∧ AnsweredAtOnce (.icfgOffNewData v) (.u8 (v &&& 0xFD)) ∧
    encode (.icfgOnNewGroupData v) = [0x37, v] ∧ AnsweredAtOnce (.icfgOnNewGroupData v) (.u8 (v ||| 0x08)) ∧
    encode (.icfgOffNewGroupData v) = [0x38, v] ∧ AnsweredAtOnce (.icfgOffNewGroupData v) (.u8 (v &&& 0xF7)) ∧
    encode (.icfgEnableInterrupt v) = [0x39, v] ∧ AnsweredAtOnce (.icfgEnableInterrupt v) (.u8 (v ||| 0x01)) ∧
    encode (.icfgDisableInterrupt v) = [0x3A, v] ∧ AnsweredAtOnce (.icfgDisableInterrupt v) (.u8 (v &&& 0xFE))

/-- `40_codec.md` R146 (d), the spec's inference: the values a builder chain can reach are exactly the bytes with bits
7, 4, 2 clear. -/
def Obligations.BuilderChainsReachExactly : Prop :=
  ∀ v : Byte, (∃ ts : List Toggle, chainValue ts = v) ↔ v &&& 0x94 = 0

/-- `30_encoding.md` R103: a builder chain expands to `ICFG_BUILDER` and one operation per toggle, and the last
operation's result is the chain's value; each toggle is idempotent and toggles of different bits commute
(`40_codec.md` R146 (a), (b)). -/
def Obligations.ChainExpansionEndsInItsValue : Prop :=
  (∀ (ts : List Toggle) (i : Instr), (expandChain ts).length = ts.length + 1 ∧
    ((expandChain ts).getLast? = some i → AnsweredAtOnce i (.u8 (chainValue ts)))) ∧
  (∀ (t : Toggle) (v : Byte), applyToggle t (applyToggle t v) = applyToggle t v) ∧
  (∀ (t u : Toggle) (v : Byte), toggleMask t ≠ toggleMask u →
    applyToggle t (applyToggle u v) = applyToggle u (applyToggle t v))

/-! ## Bus primitives -/

/-- `41_bus_primitives.md` R162: one write to `COMMAND`, the domain of its length, the error and the two refusals. The
`SEQ` of the final, idle state is the model's choice (log entry 20, DEDUCED). -/
def Obligations.WriteCommandWritesTheCommandRegister : Prop :=
  (∀ bytes : List Byte, encode (.writeCommand bytes) = 0x01 :: BitVec.ofNat 8 bytes.length :: bytes) ∧
  (∀ (s : State) (bytes : List Byte) (rest : List Input),
    accepting s → 1 ≤ bytes.length → bytes.length ≤ cmdMaxBytes → s.inputs = .answer .wrote :: rest →
      exec (.writeCommand bytes) s = .next (ended s 0 rest (wrote s.devAddr (0x12 :: bytes)) (.ok .unit))) ∧
  (∀ (s : State) (bytes : List Byte) (t : BusErr) (rest : List Input),
    accepting s → 1 ≤ bytes.length → bytes.length ≤ cmdMaxBytes → s.inputs = .answer (.err t) :: rest →
      exec (.writeCommand bytes) s =
        .next (ended s 0 rest (writeFailed s.devAddr (0x12 :: bytes) t) (.err (.busError t)))) ∧
  (∀ (s : State) (bytes : List Byte), accepting s → (bytes.length = 0 ∨ cmdMaxBytes < bytes.length) →
      exec (.writeCommand bytes) s = .next (answeredAtOnce s (.refused .badOperand))) ∧
  (∀ (s : State) (bytes : List Byte), s.run = .idle → s.life = .released →
      exec (.writeCommand bytes) s = .next (answeredAtOnce s (.refused .released)))

/-- `41_bus_primitives.md` R165: one read of any address, the domain of its length, the error and the two refusals.
The `SEQ` of the final, idle state is the model's choice (log entry 20, DEDUCED). -/
def Obligations.ReadRegisterForwardsAddressAndBytes : Prop :=
  (∀ reg n : Byte, encode (.readRegister reg n) = [0x02, reg, n]) ∧
  (∀ (s : State) (reg n : Byte) (bs : List Byte) (rest : List Input),
    accepting s → 1 ≤ n.toNat → n.toNat ≤ rdMaxBytes → bs.length = n.toNat → s.inputs = .answer (.data bs) :: rest →
      exec (.readRegister reg n) s = .next (ended s 0 rest (gotBytes s.devAddr reg n.toNat bs) (.ok (.bytes bs)))) ∧
  (∀ (s : State) (reg n : Byte) (t : BusErr) (rest : List Input),
    accepting s → 1 ≤ n.toNat → n.toNat ≤ rdMaxBytes → s.inputs = .answer (.err t) :: rest →
      exec (.readRegister reg n) s =
        .next (ended s 0 rest (readFailed s.devAddr reg n.toNat t) (.err (.busError t)))) ∧
  (∀ (s : State) (reg n : Byte), accepting s → (n.toNat = 0 ∨ rdMaxBytes < n.toNat) →
      exec (.readRegister reg n) s = .next (answeredAtOnce s (.refused .badOperand))) ∧
  (∀ (s : State) (reg n : Byte), s.run = .idle → s.life = .released →
      exec (.readRegister reg n) s = .next (answeredAtOnce s (.refused .released)))

/-! ## Accessors -/

/-- `42_accessors.md` R180: write, 50 ms, read back; the observed byte is returned whatever it is. The `SEQ` of the
final, idle state is the model's choice (log entry 20, DEDUCED). -/
def Obligations.SetOperationModeWritesWaitsReadsBack : Prop :=
  (∀ mode : Byte, encode (.setOperationMode mode) = [0x03, mode]) ∧
  (∀ (s : State) (mode m : Byte) (rest : List Input),
    accepting s → mode ∈ [0x00#8, 0x01#8, 0x02#8, 0xF0#8] →
    s.inputs = .answer .wrote :: .answer .elapsed :: .answer (.data [m]) :: rest →
      exec (.setOperationMode mode) s = .next (ended s 2 rest
        (wrote s.devAddr [0x10, mode] ++ waited 50 ++ gotBytes s.devAddr 0x10 1 [m]) (.ok (.mode m)))) ∧
  (∀ (s : State) (mode : Byte) (t : BusErr) (rest : List Input),
    accepting s → mode ∈ [0x00#8, 0x01#8, 0x02#8, 0xF0#8] → s.inputs = .answer (.err t) :: rest →
      exec (.setOperationMode mode) s =
        .next (ended s 0 rest (writeFailed s.devAddr [0x10, mode] t) (.err (.busError t)))) ∧
  (∀ (s : State) (mode : Byte) (t : BusErr) (rest : List Input),
    accepting s → mode ∈ [0x00#8, 0x01#8, 0x02#8, 0xF0#8] →
    s.inputs = .answer .wrote :: .answer .elapsed :: .answer (.err t) :: rest →
      exec (.setOperationMode mode) s = .next (ended s 2 rest
        (wrote s.devAddr [0x10, mode] ++ waited 50 ++ readFailed s.devAddr 0x10 1 t) (.err (.busError t)))) ∧
  (∀ (s : State) (mode : Byte), accepting s → mode ∉ [0x00#8, 0x01#8, 0x02#8, 0xF0#8] →
      exec (.setOperationMode mode) s = .next (answeredAtOnce s (.refused .badOperand))) ∧
  (∀ (s : State) (mode : Byte), s.run = .idle → s.life = .released →
      exec (.setOperationMode mode) s = .next (answeredAtOnce s (.refused .released)))

/-- `42_accessors.md` R182: two bytes of `PART_ID`, low byte first, not compared with anything. The `SEQ` of the
final, idle state is the model's choice (log entry 20, DEDUCED). -/
def Obligations.GetPartIdReadsLittleEndian : Prop :=
  encode .getPartId = [0x04] ∧ SingleRead .getPartId 0x00 2 (fun bs => .u16 (u16Of bs))

/-- `42_accessors.md` R184: the command, then the 8-byte window, of which bytes 4, 5, 6 are the version. The `SEQ` of
the final, idle state is the model's choice (log entry 20, DEDUCED). -/
def Obligations.GetFirmwareVersionReadsBytes4To6 : Prop :=
  encode .getFirmwareVersion = [0x05] ∧
  (∀ (s : State) (b0 b1 b2 b3 b4 b5 b6 b7 : Byte) (rest : List Input), accepting s →
    s.inputs = .answer .wrote :: .answer (.data [b0, b1, b2, b3, b4, b5, b6, b7]) :: rest →
      exec .getFirmwareVersion s = .next (ended s 1 rest
        (wrote s.devAddr [0x12, 0x0E] ++ gotBytes s.devAddr 0x48 8 [b0, b1, b2, b3, b4, b5, b6, b7])
        (.ok (.version b4 b5 b6)))) ∧
  (∀ (s : State) (t : BusErr) (rest : List Input), accepting s → s.inputs = .answer (.err t) :: rest →
      exec .getFirmwareVersion s =
        .next (ended s 0 rest (writeFailed s.devAddr [0x12, 0x0E] t) (.err (.busError t)))) ∧
  (∀ (s : State) (t : BusErr) (rest : List Input), accepting s →
    s.inputs = .answer .wrote :: .answer (.err t) :: rest →
      exec .getFirmwareVersion s = .next (ended s 1 rest
        (wrote s.devAddr [0x12, 0x0E] ++ readFailed s.devAddr 0x48 8 t) (.err (.busError t)))) ∧
  (∀ s : State, s.run = .idle → s.life = .released →
      exec .getFirmwareVersion s = .next (answeredAtOnce s (.refused .released)))

/-- `42_accessors.md` R186: `Nop`, then `ClearGPR`, two transactions. The `SEQ` of the final, idle state is the
model's choice (log entry 20, DEDUCED). -/
def Obligations.ClearCommandWritesNopThenClear : Prop :=
  encode .clearCommand = [0x06] ∧
  (∀ (s : State) (rest : List Input), accepting s → s.inputs = .answer .wrote :: .answer .wrote :: rest →
      exec .clearCommand s = .next (ended s 1 rest
        (wrote s.devAddr [0x12, 0x00] ++ wrote s.devAddr [0x12, 0xCC]) (.ok .unit))) ∧
  (∀ (s : State) (t : BusErr) (rest : List Input), accepting s → s.inputs = .answer (.err t) :: rest →
      exec .clearCommand s =
        .next (ended s 0 rest (writeFailed s.devAddr [0x12, 0x00] t) (.err (.busError t)))) ∧
  (∀ (s : State) (t : BusErr) (rest : List Input), accepting s →
    s.inputs = .answer .wrote :: .answer (.err t) :: rest →
      exec .clearCommand s = .next (ended s 1 rest
        (wrote s.devAddr [0x12, 0x00] ++ writeFailed s.devAddr [0x12, 0xCC] t) (.err (.busError t)))) ∧
  (∀ s : State, s.run = .idle → s.life = .released →
      exec .clearCommand s = .next (answeredAtOnce s (.refused .released)))

/-- `42_accessors.md` R188, R190, R194: three 16-bit getters; the ethanol value comes from the address of TVOC
(`10_state.md` R40). The `SEQ` of the final, idle state is the model's choice (log entry 20, DEDUCED). -/
def Obligations.GetEco2TvocEtohReadTheirRegisters : Prop :=
  encode .getEco2 = [0x07] ∧ SingleRead .getEco2 0x24 2 (fun bs => .u16 (u16Of bs)) ∧
  encode .getTvoc = [0x08] ∧ SingleRead .getTvoc 0x22 2 (fun bs => .u16 (u16Of bs)) ∧
  encode .getEtoh = [0x0A] ∧ SingleRead .getEtoh 0x22 2 (fun bs => .u16 (u16Of bs))

/-- `42_accessors.md` R192: the byte read is decoded as `DECODE_AQI` decodes it (`40_codec.md` R121, R127). The `SEQ`
of the final, idle state is the model's choice (log entry 20, DEDUCED). -/
def Obligations.GetAirqualityIndexDecodesItsByte : Prop :=
  encode .getAirqualityIndex = [0x09] ∧
  SingleRead .getAirqualityIndex 0x21 1 (fun bs => .aqi (match bs.map BitVec.toNat with
    | 0 :: _ => .unavailable | 1 :: _ => .aqi1 | 2 :: _ => .aqi2 | 3 :: _ => .aqi3 | 4 :: _ => .aqi4
    | 5 :: _ => .unhealthy | _ => .invalidRange))

/-- `42_accessors.md` R196: the little-endian word read is decoded as `DECODE_RAW_RESISTANCE` decodes it
(`40_codec.md` R121; its power function is that of log entry 11). The `SEQ` of the final, idle state is the model's
choice (log entry 20, DEDUCED). -/
def Obligations.GetRawResistanceDecodesItsWord : Prop :=
  encode .getRawResistance = [0x0B] ∧
  SingleRead .getRawResistance 0x4E 2 (fun bs => .f32 (resistanceDecode (u16Of bs)))

/-- `42_accessors.md` R198: the fields of the byte read, as `DECODE_STATUS` decodes them (`40_codec.md` R121, R126).
The `SEQ` of the final, idle state is the model's choice (log entry 20, DEDUCED). -/
def Obligations.GetStatusDecodesItsByte : Prop :=
  encode .getStatus = [0x0C] ∧
  SingleRead .getStatus 0x20 1 (fun bs => .status
    { newGroupDataReady := decide ((bs.headD 0).toNat % 2 = 1)
      newDataReady := decide ((bs.headD 0).toNat / 2 % 2 = 1)
      validity :=
        if (bs.headD 0).toNat / 4 % 4 = 0 then .normalOperation
        else if (bs.headD 0).toNat / 4 % 4 = 1 then .warmupPhase
        else if (bs.headD 0).toNat / 4 % 4 = 2 then .initialStartupPhase
        else .invalidOutput
      error := decide ((bs.headD 0).toNat / 64 % 2 = 1)
      runningMode := decide ((bs.headD 0).toNat / 128 % 2 = 1) })

/-- `42_accessors.md` R199 (the spec's decision D12): the eight bytes of `GPR_READ`, as they are. The `SEQ` of the
final, idle state is the model's choice (log entry 20, DEDUCED). -/
def Obligations.GetGroupDataReturnsTheWindow : Prop :=
  encode .getGroupData = [0x0D] ∧ SingleRead .getGroupData 0x48 8 (fun bs => .bytes bs)

/-- `42_accessors.md` R203: temperature encoded as `ENCODE_TEMP_COMP` encodes it, then humidity unscaled, each low
byte first, in two transactions. The `SEQ` of the final, idle state is the model's choice (log entry 20, DEDUCED). -/
def Obligations.SetTempRhCompWritesBothRegisters : Prop :=
  (∀ (c : F32) (rh : U16), (encode (.setTempRhComp c rh)).length = 7 ∧
    (encode (.setTempRhComp c rh)).head? = some 0x0E) ∧
  (∀ (s : State) (c : F32) (rh : U16) (rest : List Input), accepting s →
    s.inputs = .answer .wrote :: .answer .wrote :: rest →
      exec (.setTempRhComp c rh) s = .next (ended s 1 rest
        (wrote s.devAddr [0x13, BitVec.ofNat 8 (tempEncode c).toNat, BitVec.ofNat 8 ((tempEncode c).toNat / 256)] ++
          wrote s.devAddr [0x15, BitVec.ofNat 8 rh.toNat, BitVec.ofNat 8 (rh.toNat / 256)]) (.ok .unit))) ∧
  (∀ (s : State) (c : F32) (rh : U16) (t : BusErr) (rest : List Input), accepting s →
    s.inputs = .answer (.err t) :: rest →
      exec (.setTempRhComp c rh) s = .next (ended s 0 rest
        (writeFailed s.devAddr
          [0x13, BitVec.ofNat 8 (tempEncode c).toNat, BitVec.ofNat 8 ((tempEncode c).toNat / 256)] t)
        (.err (.busError t)))) ∧
  (∀ (s : State) (c : F32) (rh : U16) (t : BusErr) (rest : List Input), accepting s →
    s.inputs = .answer .wrote :: .answer (.err t) :: rest →
      exec (.setTempRhComp c rh) s = .next (ended s 1 rest
        (wrote s.devAddr [0x13, BitVec.ofNat 8 (tempEncode c).toNat, BitVec.ofNat 8 ((tempEncode c).toNat / 256)] ++
          writeFailed s.devAddr [0x15, BitVec.ofNat 8 rh.toNat, BitVec.ofNat 8 (rh.toNat / 256)] t)
        (.err (.busError t)))) ∧
  (∀ (s : State) (c : F32) (rh : U16), s.run = .idle → s.life = .released →
      exec (.setTempRhComp c rh) s = .next (answeredAtOnce s (.refused .released)))

/-- `42_accessors.md` R205 (the spec's decision D13): two reads, the temperature decoded as `DECODE_TEMP_COMP` decodes
it, the humidity unscaled. The `SEQ` of the final, idle state is the model's choice (log entry 20, DEDUCED). -/
def Obligations.GetTempRhCompReadsBothRegisters : Prop :=
  encode .getTempRhComp = [0x0F] ∧
  (∀ (s : State) (a0 a1 b0 b1 : Byte) (rest : List Input), accepting s →
    s.inputs = .answer (.data [a0, a1]) :: .answer (.data [b0, b1]) :: rest →
      exec .getTempRhComp s = .next (ended s 1 rest
        (gotBytes s.devAddr 0x30 2 [a0, a1] ++ gotBytes s.devAddr 0x32 2 [b0, b1])
        (.ok (.tempRh (tempDecode (u16Of [a0, a1])) (u16Of [b0, b1]))))) ∧
  (∀ (s : State) (t : BusErr) (rest : List Input), accepting s → s.inputs = .answer (.err t) :: rest →
      exec .getTempRhComp s = .next (ended s 0 rest (readFailed s.devAddr 0x30 2 t) (.err (.busError t)))) ∧
  (∀ (s : State) (a0 a1 : Byte) (t : BusErr) (rest : List Input), accepting s →
    s.inputs = .answer (.data [a0, a1]) :: .answer (.err t) :: rest →
      exec .getTempRhComp s = .next (ended s 1 rest
        (gotBytes s.devAddr 0x30 2 [a0, a1] ++ readFailed s.devAddr 0x32 2 t) (.err (.busError t)))) ∧
  (∀ s : State, s.run = .idle → s.life = .released →
      exec .getTempRhComp s = .next (answeredAtOnce s (.refused .released)))

/-- `42_accessors.md` R207: write, read back, no comparison, every bit as given. The `SEQ` of the final, idle state is
the model's choice (log entry 20, DEDUCED). -/
def Obligations.ConfigInterruptPinWritesAndReadsBack : Prop :=
  (∀ config : Byte, encode (.configInterruptPin config) = [0x10, config]) ∧
  (∀ (s : State) (config b : Byte) (rest : List Input), accepting s →
    s.inputs = .answer .wrote :: .answer (.data [b]) :: rest →
      exec (.configInterruptPin config) s = .next (ended s 1 rest
        (wrote s.devAddr [0x11, config] ++ gotBytes s.devAddr 0x11 1 [b]) (.ok (.u8 b)))) ∧
  (∀ (s : State) (config : Byte) (t : BusErr) (rest : List Input), accepting s →
    s.inputs = .answer (.err t) :: rest →
      exec (.configInterruptPin config) s =
        .next (ended s 0 rest (writeFailed s.devAddr [0x11, config] t) (.err (.busError t)))) ∧
  (∀ (s : State) (config : Byte) (t : BusErr) (rest : List Input), accepting s →
    s.inputs = .answer .wrote :: .answer (.err t) :: rest →
      exec (.configInterruptPin config) s = .next (ended s 1 rest
        (wrote s.devAddr [0x11, config] ++ readFailed s.devAddr 0x11 1 t) (.err (.busError t)))) ∧
  (∀ (s : State) (config : Byte), s.run = .idle → s.life = .released →
      exec (.configInterruptPin config) s = .next (answeredAtOnce s (.refused .released)))

/-- `42_accessors.md` R210, R211: five reads in this order with five independent answers; the record, or on the first
transport error `BusError` with no later read. The resistance is decoded with the power function of log entry 11. The
`SEQ` of the final, idle state is the model's choice (log entry 20, DEDUCED). -/
def Obligations.GetMeasurementsReadsFiveRegisters : Prop :=
  encode .getMeasurements = [0x12] ∧
  (∀ (s : State) (a0 a1 b0 b1 c d0 d1 e0 e1 : Byte) (rest : List Input), accepting s →
    s.inputs = .answer (.data [a0, a1]) :: .answer (.data [b0, b1]) :: .answer (.data [c]) ::
      .answer (.data [d0, d1]) :: .answer (.data [e0, e1]) :: rest →
      exec .getMeasurements s = .next (ended s 4 rest
        (gotBytes s.devAddr 0x24 2 [a0, a1] ++ gotBytes s.devAddr 0x22 2 [b0, b1] ++ gotBytes s.devAddr 0x21 1 [c] ++
          gotBytes s.devAddr 0x22 2 [d0, d1] ++ gotBytes s.devAddr 0x4E 2 [e0, e1])
        (.ok (.measurements ⟨u16Of [a0, a1], u16Of [b0, b1], aqiOf c, u16Of [d0, d1],
          resistanceDecode (u16Of [e0, e1])⟩)))) ∧
  (∀ (s : State) (t : BusErr) (rest : List Input), accepting s → s.inputs = .answer (.err t) :: rest →
      exec .getMeasurements s = .next (ended s 0 rest (readFailed s.devAddr 0x24 2 t) (.err (.busError t)))) ∧
  (∀ (s : State) (a0 a1 : Byte) (t : BusErr) (rest : List Input), accepting s →
    s.inputs = .answer (.data [a0, a1]) :: .answer (.err t) :: rest →
      exec .getMeasurements s = .next (ended s 1 rest
        (gotBytes s.devAddr 0x24 2 [a0, a1] ++ readFailed s.devAddr 0x22 2 t) (.err (.busError t)))) ∧
  (∀ (s : State) (a0 a1 b0 b1 : Byte) (t : BusErr) (rest : List Input), accepting s →
    s.inputs = .answer (.data [a0, a1]) :: .answer (.data [b0, b1]) :: .answer (.err t) :: rest →
      exec .getMeasurements s = .next (ended s 2 rest
        (gotBytes s.devAddr 0x24 2 [a0, a1] ++ gotBytes s.devAddr 0x22 2 [b0, b1] ++ readFailed s.devAddr 0x21 1 t)
        (.err (.busError t)))) ∧
  (∀ (s : State) (a0 a1 b0 b1 c : Byte) (t : BusErr) (rest : List Input), accepting s →
    s.inputs = .answer (.data [a0, a1]) :: .answer (.data [b0, b1]) :: .answer (.data [c]) ::
      .answer (.err t) :: rest →
      exec .getMeasurements s = .next (ended s 3 rest
        (gotBytes s.devAddr 0x24 2 [a0, a1] ++ gotBytes s.devAddr 0x22 2 [b0, b1] ++ gotBytes s.devAddr 0x21 1 [c] ++
          readFailed s.devAddr 0x22 2 t) (.err (.busError t)))) ∧
  (∀ (s : State) (a0 a1 b0 b1 c d0 d1 : Byte) (t : BusErr) (rest : List Input), accepting s →
    s.inputs = .answer (.data [a0, a1]) :: .answer (.data [b0, b1]) :: .answer (.data [c]) ::
      .answer (.data [d0, d1]) :: .answer (.err t) :: rest →
      exec .getMeasurements s = .next (ended s 4 rest
        (gotBytes s.devAddr 0x24 2 [a0, a1] ++ gotBytes s.devAddr 0x22 2 [b0, b1] ++ gotBytes s.devAddr 0x21 1 [c] ++
          gotBytes s.devAddr 0x22 2 [d0, d1] ++ readFailed s.devAddr 0x4E 2 t) (.err (.busError t)))) ∧
  (∀ s : State, s.run = .idle → s.life = .released →
      exec .getMeasurements s = .next (answeredAtOnce s (.refused .released)))

/-! ## The initialisation state machine and release -/

/-- `43_initialize.md` R230, R231, R241: with the part ID 0x0160 and Standard confirmed, and every other answer
arbitrary, `INITIALIZE` issues its nineteen requests in order, ends in `Ready` and responds `Ok(true)`, from every
`INIT_STATE`. That the Idle read-back `m1` is not compared is the spec's decision D37 (log entry 12). Offers made
between the answers are left to `BusyBlockHoldsEveryOffer` and `AnswersMayComeLater`. The `SEQ` of the final, idle
state is the model's choice (log entry 20, DEDUCED). -/
def Obligations.InitializeSucceeds : Prop :=
  ∀ (s : State) (m1 s1 s2 s3 m2 : Byte) (fw : List Byte) (rest : List Input), accepting s → fw.length = 8 →
    s.inputs = initAnswersUpToPartId m1 s1 [0x60, 0x01] ++ initAnswersUpToStandard s2 fw 0x02 ++
      [.answer .elapsed, .answer (.data [s3]), .answer (.data [m2])] ++ rest →
      exec .initializeSensor s = .next (ended { s with initState := .ready } 18 rest
        (initUpToPartId s.devAddr m1 s1 [0x60, 0x01] ++ initUpToStandard s.devAddr s2 fw 0x02 ++
          (waited 150 ++ gotBytes s.devAddr 0x20 1 [s3] ++ gotBytes s.devAddr 0x10 1 [m2])) (.ok (.bool true)))

/-- `43_initialize.md` R236 (b), `60_exceptions.md` R272: a part ID other than 0x0160 ends `INITIALIZE` after five
requests, in `ChipIdMismatch`, with `UnexpectedChipId` of the observed value. The `SEQ` of the final, idle state is
the model's choice (log entry 20, DEDUCED). -/
def Obligations.InitializeRejectsAnotherChip : Prop :=
  ∀ (s : State) (m1 s1 b0 b1 : Byte) (rest : List Input), accepting s → u16Of [b0, b1] ≠ 0x0160 →
    s.inputs = initAnswersUpToPartId m1 s1 [b0, b1] ++ rest →
      exec .initializeSensor s = .next (ended { s with initState := .chipIdMismatch } 4 rest
        (initUpToPartId s.devAddr m1 s1 [b0, b1]) (.err (.unexpectedChipId (u16Of [b0, b1]))))

/-- `43_initialize.md` R236 (a), `60_exceptions.md` R274: a transport error on the part-ID read inside `INITIALIZE` is
caught: `Ok(false)`, `Unreachable`, the error value lost. The `SEQ` of the final, idle state is the model's choice
(log entry 20, DEDUCED). -/
def Obligations.InitializeUnreachableAnswersFalse : Prop :=
  ∀ (s : State) (m1 s1 : Byte) (t : BusErr) (rest : List Input), accepting s →
    s.inputs = [.answer .wrote, .answer .elapsed, .answer (.data [m1]), .answer (.data [s1]), .answer (.err t)] ++
      rest →
      exec .initializeSensor s = .next (ended { s with initState := .unreachable } 4 rest
        (wrote s.devAddr [0x10, 0x01] ++ waited 50 ++ gotBytes s.devAddr 0x10 1 [m1] ++
          gotBytes s.devAddr 0x20 1 [s1] ++ readFailed s.devAddr 0x00 2 t) (.ok (.bool false)))

/-- `43_initialize.md` R239, `60_exceptions.md` R273: a Standard read-back other than 0x02 ends `INITIALIZE` after
sixteen requests, in `ModeMismatch`, with `OpModeNotCorrect` of the observed byte. The `SEQ` of the final, idle state
is the model's choice (log entry 20, DEDUCED). -/
def Obligations.InitializeRejectsAnotherMode : Prop :=
  ∀ (s : State) (m1 s1 s2 m : Byte) (fw : List Byte) (rest : List Input), accepting s → fw.length = 8 → m ≠ 0x02 →
    s.inputs = initAnswersUpToPartId m1 s1 [0x60, 0x01] ++ initAnswersUpToStandard s2 fw m ++ rest →
      exec .initializeSensor s = .next (ended { s with initState := .modeMismatch } 15 rest
        (initUpToPartId s.devAddr m1 s1 [0x60, 0x01] ++ initUpToStandard s.devAddr s2 fw m)
        (.err (.opModeNotCorrect m)))

/-- `41_bus_primitives.md` R160, R161, `10_state.md` R24, R25. First clause: with no input to come, every protocol
operation but `RELEASE`, whose operands lie in their domain, is accepted: `RUN` holds the operation with its operands,
`SEQ` is 0 and request 0 of its table is outstanding; nothing else changes, but that `INITIALIZE` sets `INIT_STATE` to
Start. That `SCR` is then empty and the partial results are zero is the model's choice (log entries 23, 19, DESIGN
CHOICE). Second clause: after a good answer after which the operation is still running, the bytes read stand in `SCR` (an
answer without bytes leaves `SCR` as it was) and `SEQ` is one more; this for every operation. Third clause: for a
protocol operation other than `INITIALIZE` and `RELEASE`, a good answer to any request of its table but the last leads to
the next request of the table and changes nothing else that lasts; a good answer to the last one ends it with an `Ok`
response. The `SEQ` it then leaves is the model's choice (log entry 20, DEDUCED), and the results decoded so far (`acc'`)
are said by the statements of the two operations that keep any. -/
def Obligations.OperationsFollowTheirRequests : Prop :=
  (∀ (i : Instr) (s : State), i.isProtocol = true → i ≠ .release → operandOk i = true → accepting s → s.inputs = [] →
    ∃ q : Request, (requestsOf s.devAddr i)[0]? = some q ∧
      exec i s = .next { s with
        initState := if i = .initializeSensor then .start else s.initState
        seq := 0
        run := .running i [] Partial.none
        pending := some q
        trace := s.trace ++ [.issued q] }) ∧
  (∀ (s s' : State) (op : Instr) (scr : List Byte) (acc : Partial) (q : Request) (a : Answer),
    s.run = .running op scr acc → s.pending = some q → goodAnswer q a → s.inputs = [.answer a] →
    step s = .next s' → s'.busy = true →
      s'.scr = scrAfter a scr ∧ s'.seq = s.seq + 1 ∧ ∃ acc', s'.run = .running op (scrAfter a scr) acc') ∧
  (∀ (s : State) (op : Instr) (scr : List Byte) (acc : Partial) (q : Request) (a : Answer),
    s.run = .running op scr acc → op.isProtocol = true → op ≠ .initializeSensor → op ≠ .release →
    s.pending = some q → goodAnswer q a → s.inputs = [.answer a] →
      (∀ q' : Request, (requestsOf s.devAddr op)[s.seq + 1]? = some q' → ∃ acc',
        step s = .next { s with
          seq := s.seq + 1
          run := .running op (scrAfter a scr) acc'
          pending := some q'
          inputs := []
          trace := s.trace ++ [.answered a, .issued q'] }) ∧
      ((requestsOf s.devAddr op)[s.seq + 1]? = none → ∃ v : Value,
        step s = .next (ended s s.seq [] [.answered a] (.ok v))))

/-- `43_initialize.md` R231, R243: every row of the table: a good answer to request `k` leads to request `k + 1`, with
`INIT_STATE` as the table says and the bytes read in `SCR`; the first request is issued on acceptance, with
`INIT_STATE` Start. Each clause gives the whole next state. That `SCR` is empty and the partial results are zero on
acceptance is the model's choice (log entries 23, 19, DESIGN CHOICE). -/
def Obligations.InitializeFollowsItsTable : Prop :=
  (∀ s : State, accepting s → s.inputs = [] →
    exec .initializeSensor s = .next { s with
      initState := .start
      seq := 0
      run := .running .initializeSensor [] Partial.none
      pending := some (.busWrite s.devAddr [0x10, 0x01])
      trace := s.trace ++ [.issued (.busWrite s.devAddr [0x10, 0x01])] }) ∧
  (∀ (s : State) (scr : List Byte) (acc : Partial) (q q' : Request) (a : Answer),
    s.run = .running .initializeSensor scr acc → s.initState = initStateAt s.seq →
    (initRequests s.devAddr)[s.seq]? = some q → (initRequests s.devAddr)[s.seq + 1]? = some q' →
    s.pending = some q → initGoodAnswer s.seq q a → s.inputs = [.answer a] →
      step s = .next { s with
        initState := initStateAt (s.seq + 1)
        seq := s.seq + 1
        run := .running .initializeSensor (scrAfter a scr) acc
        pending := some q'
        inputs := []
        trace := s.trace ++ [.answered a, .issued q'] })

/-- `41_bus_primitives.md` R166, `60_exceptions.md` R276, `43_initialize.md` R242, R243: a transport error on any bus
request of any protocol operation ends it at once with `BusError`: no further request, no partial result, nothing else
changed, but that `INITIALIZE` ends in `BusFault`; its part-ID read, whose error is caught, has a statement of its
own. (`RELEASE` issues no request.) The `SEQ` of the final, idle state is the model's choice (log entry 20, DEDUCED).
-/
def Obligations.TransportErrorsFailFast : Prop :=
  (∀ (s : State) (op : Instr) (scr : List Byte) (acc : Partial) (q : Request) (t : BusErr) (rest : List Input),
    s.run = .running op scr acc → op.isProtocol = true → op ≠ .initializeSensor → op ≠ .release →
    s.pending = some q → (∀ n, q ≠ .delayMs n) → s.inputs = .answer (.err t) :: rest →
      step s = .next (ended s s.seq rest [.answered (.err t)] (.err (.busError t)))) ∧
  (∀ (s : State) (scr : List Byte) (acc : Partial) (q : Request) (t : BusErr) (rest : List Input),
    s.run = .running .initializeSensor scr acc → s.seq ≠ 4 → (initRequests s.devAddr)[s.seq]? = some q →
    (∀ n, q ≠ .delayMs n) → s.pending = some q → s.inputs = .answer (.err t) :: rest →
      step s = .next (ended { s with initState := .busFault } s.seq rest [.answered (.err t)] (.err (.busError t))))

/-- `43_initialize.md` R245: `RELEASE` sets `LIFE` to Released and issues no request; `INIT_STATE` keeps its value; a
second one is refused. `SEQ` takes 0 on acceptance (`41_bus_primitives.md` R160); that it keeps that 0 is the model's
choice (log entry 20, DEDUCED). -/
def Obligations.ReleaseGivesUpThePorts : Prop :=
  encode .release = [0x13] ∧
  (∀ s : State, accepting s →
    exec .release s = .next (ended { s with life := .released } 0 s.inputs [] (.ok .unit))) ∧
  (∀ s : State, s.run = .idle → s.life = .released →
    exec .release s = .next (answeredAtOnce s (.refused .released)))

/-- `60_exceptions.md` R280, R281: in a released block every protocol operation is refused with `Released`, also one
with an operand outside its domain, and nothing changes, not even `INIT_STATE`. -/
def Obligations.ReleasedBlockRefusesProtocol : Prop :=
  ∀ (i : Instr) (s : State), i.isProtocol = true → s.run = .idle → s.life = .released →
    exec i s = .next (answeredAtOnce s (.refused .released))

/-- `10_state.md` R22, `43_initialize.md` R245: from a released block at rest, however many steps and whatever happens
but reset, no request is ever issued, and the block stays released. -/
def Obligations.ReleasedBlockIssuesNoRequest : Prop :=
  ∀ (n : Nat) (s s' : State), s.life = .released → s.run = .idle → Input.reset ∉ s.inputs →
    runSteps n s = .next s' →
      s'.life = .released ∧ s'.run = .idle ∧
        ∃ es : List Event, s'.trace = s.trace ++ es ∧ ∀ e ∈ es, isRequest e = false

/-! ## The whole machine -/

/-- `10_state.md` R20 to R23, `41_bus_primitives.md` R167: without a reset, no step writes `DEVADDR`; a step changes
`INIT_STATE` only if it runs or goes on with `INITIALIZE`, and `LIFE` only if it runs `RELEASE` (or goes on with one,
which no reachable state does). An idle block with nothing offered that takes an input changes nothing but the host
port: an offer reaches it, an answer nobody asked for is not taken (log entry 7, DEDUCED), and without input nothing
happens (log entry 4, DESIGN CHOICE). -/
def Obligations.LastingStateHasFewWriters : Prop :=
  (∀ (i : Instr) (s s' : State), Input.reset ∉ s.inputs → s.run = .idle → exec i s = .next s' →
    s'.devAddr = s.devAddr ∧ (i ≠ .initializeSensor → s'.initState = s.initState) ∧
      (i ≠ .release → s'.life = s.life)) ∧
  (∀ s s' : State, Input.reset ∉ s.inputs → step s = .next s' →
    s'.devAddr = s.devAddr ∧ s'.strap = s.strap ∧
      (s'.initState ≠ s.initState → worksOn s .initializeSensor) ∧ (s'.life ≠ s.life → worksOn s .release)) ∧
  (∀ s : State, s.run = .idle → s.hostPort = [] →
    (∀ (o : List Byte) (rest : List Input), s.inputs = .offer o :: rest →
      step s = .next { s with hostPort := [o], inputs := rest }) ∧
    (∀ (a : Answer) (rest : List Input), s.inputs = .answer a :: rest →
      step s = .next { s with inputs := rest }) ∧
    (s.inputs = [] → step s = .next s))

/-- Every step keeps the invariant of the block's state (`10_state.md` R21, R23, R24, R48; `41_bus_primitives.md` R161;
`43_initialize.md` R231, R242). -/
def Obligations.StepKeepsInvariant : Prop :=
  ∀ s s' : State, Inv s → step s = .next s' → Inv s'

/-- The state after reset meets the invariant. -/
def Obligations.ResetMeetsInvariant : Prop := Inv State.reset

/-- `00_scope.md` R12, `41_bus_primitives.md` R160: without a reset, an operation offered to an idle block, and an
operation that was held and goes on, either ends, with exactly one response, its last event, or is still running and
has sent none; the trace so far is never rewritten. -/
def Obligations.ExactlyOneResponsePerOperation : Prop :=
  (∀ (i : Instr) (s s' : State), s.run = .idle → Input.reset ∉ s.inputs → exec i s = .next s' →
    respondsOnceOrHolds s s') ∧
  (∀ s s' : State, s.busy = true → Input.reset ∉ s.inputs → step s = .next s' → respondsOnceOrHolds s s')

/-- `20_memory.md` R50, R51, `60_exceptions.md` R292: without a reset, every request a step issues goes to `DEVADDR`; a
write carries a register address and at least one byte; a read writes one address byte and asks for at least one byte;
a delay is 10, 50 or 150 ms. -/
def Obligations.EveryRequestIsProper : Prop :=
  ∀ s s' : State, Input.reset ∉ s.inputs → step s = .next s' →
    ∃ es : List Event, s'.trace = s.trace ++ es ∧ ∀ e ∈ es, properEvent s.devAddr e = true

/-- Every operation has its meaning: no step is refused by the model. A step stops only when an answer meets an
outstanding bus request and has not a shape that `20_memory.md` R50, R51 give the answers to that request: a model's
choice (log entry 6, and log entry 24 for a late answer after a reset; DESIGN CHOICE). An answer on a port that has no
request outstanding, an error or data while a delay is outstanding among them, is not taken (log entry 7, DEDUCED). -/
def Obligations.StepsStopOnlyOnABrokenTransport : Prop :=
  (∀ (s : State) (r : Refusal), step s ≠ .refused r) ∧
  (∀ (s : State) (r : Fault), step s = .fault r →
    ∃ (xs : List Input) (a : Answer) (rest : List Input) (s1 : State),
      s.inputs = xs ++ .answer a :: rest ∧ step { s with inputs := xs } = .next s1 ∧ s1.busy = true ∧
        misfits s1.pending a) ∧
  (∀ (s : State) (a : Answer), s.busy = true → s.inputs = [.answer a] →
    (step s = .fault .transportContract ↔ misfits s.pending a)) ∧
  (∀ (s : State) (a : Answer) (rest : List Input), s.busy = true → s.inputs = .answer a :: rest →
    (misfits s.pending a → step s = .fault .transportContract) ∧
    (unasked s.pending a → step s = step { s with inputs := rest }))
end

