-- ==== Sys2Proof/Laws/Encode.lean ====
section
/-! SUPPORT. Byte order and the formats of the host port: the small lemmas of the encoding. -/

namespace Sys2Proof

/-- Concatenation as arithmetic. -/
theorem append_byte_toNat (hi : Byte) (lo : Byte) : (hi ++ lo).toNat = lo.toNat + 256 * hi.toNat := by
  have h := lo.isLt
  rw [BitVec.toNat_append, ← Nat.shiftLeft_add_eq_or_of_lt h, Nat.shiftLeft_eq]
  omega

/-- `le16(b0, b1) = b0 + 256 * b1` (`00_scope.md` R11). -/
theorem le16_toNat (b0 b1 : Byte) : (le16 b0 b1).toNat = b0.toNat + 256 * b1.toNat := append_byte_toNat b1 b0

/-- `DECODE_U16_LE(ENCODE_U16_LE(v)) = v` (`40_codec.md` R122). -/
@[simp] theorem le16_lo8_hi8 (v : U16) : le16 (lo8 v) (hi8 v) = v := by
  apply BitVec.eq_of_toNat_eq
  have h := v.isLt
  simp only [le16_toNat, lo8, hi8, BitVec.extractLsb'_toNat, Nat.shiftRight_eq_div_pow]
  omega

/-- The low byte of an assembled value is its first byte. -/
@[simp] theorem lo8_le16 (b0 b1 : Byte) : lo8 (le16 b0 b1) = b0 := by
  apply BitVec.eq_of_toNat_eq
  have h := b0.isLt
  simp only [lo8, le16_toNat, BitVec.extractLsb'_toNat, Nat.shiftRight_eq_div_pow]
  omega

/-- The high byte of an assembled value is its second byte. -/
@[simp] theorem hi8_le16 (b0 b1 : Byte) : hi8 (le16 b0 b1) = b1 := by
  apply BitVec.eq_of_toNat_eq
  have h := b0.isLt
  have h1 := b1.isLt
  simp only [hi8, le16_toNat, BitVec.extractLsb'_toNat, Nat.shiftRight_eq_div_pow]
  omega

/-- The number a pattern of four bytes is. -/
theorem le32_toNat (b0 b1 b2 b3 : Byte) :
    (le32 b0 b1 b2 b3).toNat = b0.toNat + 256 * b1.toNat + 65536 * b2.toNat + 16777216 * b3.toNat := by
  have e1 := append_byte_toNat b1 b0
  have h := (b1 ++ b0).isLt
  have h3 := (b2 ++ (b1 ++ b0)).isLt
  have e3 : (le32 b0 b1 b2 b3).toNat = (b2 ++ (b1 ++ b0)).toNat + 2 ^ 24 * b3.toNat := by
    simp only [le32, BitVec.toNat_append b3]
    rw [← Nat.shiftLeft_add_eq_or_of_lt h3, Nat.shiftLeft_eq]
    omega
  have e4 : (b2 ++ (b1 ++ b0)).toNat = (b1 ++ b0).toNat + 2 ^ 16 * b2.toNat := by
    rw [BitVec.toNat_append b2, ← Nat.shiftLeft_add_eq_or_of_lt h, Nat.shiftLeft_eq]
    omega
  omega

/-- The four bytes of a pattern assemble to the pattern. -/
@[simp] theorem le32_bytes (x : F32) :
    le32 (x.extractLsb' 0 8) (x.extractLsb' 8 8) (x.extractLsb' 16 8) (x.extractLsb' 24 8) = x := by
  apply BitVec.eq_of_toNat_eq
  have h := x.isLt
  simp only [le32_toNat, BitVec.extractLsb'_toNat, Nat.shiftRight_eq_div_pow]
  omega

/-- The bytes of an assembled pattern are the four bytes. -/
@[simp] theorem encodeF32Le_le32 (b0 b1 b2 b3 : Byte) : encodeF32Le (le32 b0 b1 b2 b3) = [b0, b1, b2, b3] := by
  have h0 := b0.isLt
  have h1 := b1.isLt
  have h2 := b2.isLt
  have h3 := b3.isLt
  simp only [encodeF32Le, List.cons.injEq, and_true]
  refine ⟨?_, ?_, ?_, ?_⟩ <;> apply BitVec.eq_of_toNat_eq <;>
    simp only [le32_toNat, BitVec.extractLsb'_toNat, Nat.shiftRight_eq_div_pow] <;> omega

/-- A format without operands takes exactly the empty rest. -/
@[simp] theorem formatN_nil (op : Byte) (i : Instr) : formatN op i [] = .instr i := rfl

/-- A count byte followed by that many bytes is format `V`. -/
theorem formatV_cons (op : Byte) (f : List Byte → Instr) (data : List Byte) (h : data.length ≤ 255) :
    formatV op f (BitVec.ofNat 8 data.length :: data) = .instr (f data) := by
  have : data.length % 256 = data.length := Nat.mod_eq_of_lt (by omega)
  simp [formatV, this]

/-- An operation's byte string begins with its code. -/
@[simp] theorem encode_head (i : Instr) : (encode i).head? = some i.opcode := rfl

end Sys2Proof
end

