-- ==== Sys2Proof/Laws/State.lean ====
section
/-! SUPPORT. One lemma per field per update of the state, true by rfl, so that no later proof unfolds an update. -/

namespace Sys2Proof.Machine

/-! `State.emit` -/

@[simp] theorem State.emit_strap (s : State) (e : Event) : (s.emit e).strap = s.strap := rfl
@[simp] theorem State.emit_devAddr (s : State) (e : Event) : (s.emit e).devAddr = s.devAddr := rfl
@[simp] theorem State.emit_life (s : State) (e : Event) : (s.emit e).life = s.life := rfl
@[simp] theorem State.emit_initState (s : State) (e : Event) : (s.emit e).initState = s.initState := rfl
@[simp] theorem State.emit_seq (s : State) (e : Event) : (s.emit e).seq = s.seq := rfl
@[simp] theorem State.emit_run (s : State) (e : Event) : (s.emit e).run = s.run := rfl
@[simp] theorem State.emit_pending (s : State) (e : Event) : (s.emit e).pending = s.pending := rfl
@[simp] theorem State.emit_hostPort (s : State) (e : Event) : (s.emit e).hostPort = s.hostPort := rfl
@[simp] theorem State.emit_inputs (s : State) (e : Event) : (s.emit e).inputs = s.inputs := rfl
@[simp] theorem State.emit_trace (s : State) (e : Event) : (s.emit e).trace = s.trace ++ [e] := rfl

/-! `State.accept` -/

@[simp] theorem State.accept_strap (s : State) (i : Instr) : (s.accept i).strap = s.strap := rfl
@[simp] theorem State.accept_devAddr (s : State) (i : Instr) : (s.accept i).devAddr = s.devAddr := rfl
@[simp] theorem State.accept_life (s : State) (i : Instr) : (s.accept i).life = s.life := rfl
@[simp] theorem State.accept_initState (s : State) (i : Instr) : (s.accept i).initState = s.initState := rfl
@[simp] theorem State.accept_seq (s : State) (i : Instr) : (s.accept i).seq = 0 := rfl
@[simp] theorem State.accept_run (s : State) (i : Instr) : (s.accept i).run = .running i [] Partial.none := rfl
@[simp] theorem State.accept_pending (s : State) (i : Instr) : (s.accept i).pending = s.pending := rfl
@[simp] theorem State.accept_hostPort (s : State) (i : Instr) : (s.accept i).hostPort = s.hostPort := rfl
@[simp] theorem State.accept_inputs (s : State) (i : Instr) : (s.accept i).inputs = s.inputs := rfl
@[simp] theorem State.accept_trace (s : State) (i : Instr) : (s.accept i).trace = s.trace := rfl

/-! `State.issue` -/

@[simp] theorem State.issue_strap (s : State) (q : Request) : (s.issue q).strap = s.strap := rfl
@[simp] theorem State.issue_devAddr (s : State) (q : Request) : (s.issue q).devAddr = s.devAddr := rfl
@[simp] theorem State.issue_life (s : State) (q : Request) : (s.issue q).life = s.life := rfl
@[simp] theorem State.issue_initState (s : State) (q : Request) : (s.issue q).initState = s.initState := rfl
@[simp] theorem State.issue_seq (s : State) (q : Request) : (s.issue q).seq = s.seq := rfl
@[simp] theorem State.issue_run (s : State) (q : Request) : (s.issue q).run = s.run := rfl
@[simp] theorem State.issue_pending (s : State) (q : Request) : (s.issue q).pending = some q := rfl
@[simp] theorem State.issue_hostPort (s : State) (q : Request) : (s.issue q).hostPort = s.hostPort := rfl
@[simp] theorem State.issue_inputs (s : State) (q : Request) : (s.issue q).inputs = s.inputs := rfl
@[simp] theorem State.issue_trace (s : State) (q : Request) : (s.issue q).trace = s.trace ++ [.issued q] := rfl

/-! `State.takeAnswer` -/

@[simp] theorem State.takeAnswer_strap (s : State) (a : Answer) : (s.takeAnswer a).strap = s.strap := rfl
@[simp] theorem State.takeAnswer_devAddr (s : State) (a : Answer) : (s.takeAnswer a).devAddr = s.devAddr := rfl
@[simp] theorem State.takeAnswer_life (s : State) (a : Answer) : (s.takeAnswer a).life = s.life := rfl
@[simp] theorem State.takeAnswer_initState (s : State) (a : Answer) : (s.takeAnswer a).initState = s.initState := rfl
@[simp] theorem State.takeAnswer_seq (s : State) (a : Answer) : (s.takeAnswer a).seq = s.seq := rfl
@[simp] theorem State.takeAnswer_run (s : State) (a : Answer) : (s.takeAnswer a).run = s.run := rfl
@[simp] theorem State.takeAnswer_pending (s : State) (a : Answer) : (s.takeAnswer a).pending = none := rfl
@[simp] theorem State.takeAnswer_hostPort (s : State) (a : Answer) : (s.takeAnswer a).hostPort = s.hostPort := rfl
@[simp] theorem State.takeAnswer_inputs (s : State) (a : Answer) : (s.takeAnswer a).inputs = s.inputs := rfl
@[simp] theorem State.takeAnswer_trace (s : State) (a : Answer) : (s.takeAnswer a).trace = s.trace ++ [.answered a] := rfl

/-! `State.finish` -/

@[simp] theorem State.finish_strap (s : State) (r : Response) : (s.finish r).strap = s.strap := rfl
@[simp] theorem State.finish_devAddr (s : State) (r : Response) : (s.finish r).devAddr = s.devAddr := rfl
@[simp] theorem State.finish_life (s : State) (r : Response) : (s.finish r).life = s.life := rfl
@[simp] theorem State.finish_initState (s : State) (r : Response) : (s.finish r).initState = s.initState := rfl
@[simp] theorem State.finish_seq (s : State) (r : Response) : (s.finish r).seq = s.seq := rfl
@[simp] theorem State.finish_run (s : State) (r : Response) : (s.finish r).run = .idle := rfl
@[simp] theorem State.finish_pending (s : State) (r : Response) : (s.finish r).pending = none := rfl
@[simp] theorem State.finish_hostPort (s : State) (r : Response) : (s.finish r).hostPort = s.hostPort := rfl
@[simp] theorem State.finish_inputs (s : State) (r : Response) : (s.finish r).inputs = s.inputs := rfl
@[simp] theorem State.finish_trace (s : State) (r : Response) : (s.finish r).trace = s.trace ++ [.responded r] := rfl

/-! `State.succeed` -/

@[simp] theorem State.succeed_strap (s : State) (v : Value) : (s.succeed v).strap = s.strap := rfl
@[simp] theorem State.succeed_devAddr (s : State) (v : Value) : (s.succeed v).devAddr = s.devAddr := rfl
@[simp] theorem State.succeed_life (s : State) (v : Value) : (s.succeed v).life = s.life := rfl
@[simp] theorem State.succeed_initState (s : State) (v : Value) : (s.succeed v).initState = s.initState := rfl
@[simp] theorem State.succeed_seq (s : State) (v : Value) : (s.succeed v).seq = s.seq := rfl
@[simp] theorem State.succeed_run (s : State) (v : Value) : (s.succeed v).run = .idle := rfl
@[simp] theorem State.succeed_pending (s : State) (v : Value) : (s.succeed v).pending = none := rfl
@[simp] theorem State.succeed_hostPort (s : State) (v : Value) : (s.succeed v).hostPort = s.hostPort := rfl
@[simp] theorem State.succeed_inputs (s : State) (v : Value) : (s.succeed v).inputs = s.inputs := rfl
@[simp] theorem State.succeed_trace (s : State) (v : Value) : (s.succeed v).trace = s.trace ++ [.responded (.ok v)] := rfl

/-! `State.raise` -/

@[simp] theorem State.raise_strap (s : State) (e : OpError) : (s.raise e).strap = s.strap := rfl
@[simp] theorem State.raise_devAddr (s : State) (e : OpError) : (s.raise e).devAddr = s.devAddr := rfl
@[simp] theorem State.raise_life (s : State) (e : OpError) : (s.raise e).life = s.life := rfl
@[simp] theorem State.raise_initState (s : State) (e : OpError) : (s.raise e).initState = s.initState := rfl
@[simp] theorem State.raise_seq (s : State) (e : OpError) : (s.raise e).seq = s.seq := rfl
@[simp] theorem State.raise_run (s : State) (e : OpError) : (s.raise e).run = .idle := rfl
@[simp] theorem State.raise_pending (s : State) (e : OpError) : (s.raise e).pending = none := rfl
@[simp] theorem State.raise_hostPort (s : State) (e : OpError) : (s.raise e).hostPort = s.hostPort := rfl
@[simp] theorem State.raise_inputs (s : State) (e : OpError) : (s.raise e).inputs = s.inputs := rfl
@[simp] theorem State.raise_trace (s : State) (e : OpError) : (s.raise e).trace = s.trace ++ [.responded (.err e)] := rfl

/-! `State.refuse` -/

@[simp] theorem State.refuse_strap (s : State) (r : RefusalReason) : (s.refuse r).strap = s.strap := rfl
@[simp] theorem State.refuse_devAddr (s : State) (r : RefusalReason) : (s.refuse r).devAddr = s.devAddr := rfl
@[simp] theorem State.refuse_life (s : State) (r : RefusalReason) : (s.refuse r).life = s.life := rfl
@[simp] theorem State.refuse_initState (s : State) (r : RefusalReason) : (s.refuse r).initState = s.initState := rfl
@[simp] theorem State.refuse_seq (s : State) (r : RefusalReason) : (s.refuse r).seq = s.seq := rfl
@[simp] theorem State.refuse_run (s : State) (r : RefusalReason) : (s.refuse r).run = s.run := rfl
@[simp] theorem State.refuse_pending (s : State) (r : RefusalReason) : (s.refuse r).pending = s.pending := rfl
@[simp] theorem State.refuse_hostPort (s : State) (r : RefusalReason) : (s.refuse r).hostPort = s.hostPort := rfl
@[simp] theorem State.refuse_inputs (s : State) (r : RefusalReason) : (s.refuse r).inputs = s.inputs := rfl
@[simp] theorem State.refuse_trace (s : State) (r : RefusalReason) : (s.refuse r).trace = s.trace ++ [.responded (.refused r)] := rfl

/-! `State.enqueue` -/

@[simp] theorem State.enqueue_strap (s : State) (o : List Byte) : (s.enqueue o).strap = s.strap := rfl
@[simp] theorem State.enqueue_devAddr (s : State) (o : List Byte) : (s.enqueue o).devAddr = s.devAddr := rfl
@[simp] theorem State.enqueue_life (s : State) (o : List Byte) : (s.enqueue o).life = s.life := rfl
@[simp] theorem State.enqueue_initState (s : State) (o : List Byte) : (s.enqueue o).initState = s.initState := rfl
@[simp] theorem State.enqueue_seq (s : State) (o : List Byte) : (s.enqueue o).seq = s.seq := rfl
@[simp] theorem State.enqueue_run (s : State) (o : List Byte) : (s.enqueue o).run = s.run := rfl
@[simp] theorem State.enqueue_pending (s : State) (o : List Byte) : (s.enqueue o).pending = s.pending := rfl
@[simp] theorem State.enqueue_hostPort (s : State) (o : List Byte) : (s.enqueue o).hostPort = s.hostPort ++ [o] := rfl
@[simp] theorem State.enqueue_inputs (s : State) (o : List Byte) : (s.enqueue o).inputs = s.inputs := rfl
@[simp] theorem State.enqueue_trace (s : State) (o : List Byte) : (s.enqueue o).trace = s.trace := rfl

/-! `State.setInit` -/

@[simp] theorem State.setInit_strap (s : State) (i : InitState) : (s.setInit i).strap = s.strap := rfl
@[simp] theorem State.setInit_devAddr (s : State) (i : InitState) : (s.setInit i).devAddr = s.devAddr := rfl
@[simp] theorem State.setInit_life (s : State) (i : InitState) : (s.setInit i).life = s.life := rfl
@[simp] theorem State.setInit_initState (s : State) (i : InitState) : (s.setInit i).initState = i := rfl
@[simp] theorem State.setInit_seq (s : State) (i : InitState) : (s.setInit i).seq = s.seq := rfl
@[simp] theorem State.setInit_run (s : State) (i : InitState) : (s.setInit i).run = s.run := rfl
@[simp] theorem State.setInit_pending (s : State) (i : InitState) : (s.setInit i).pending = s.pending := rfl
@[simp] theorem State.setInit_hostPort (s : State) (i : InitState) : (s.setInit i).hostPort = s.hostPort := rfl
@[simp] theorem State.setInit_inputs (s : State) (i : InitState) : (s.setInit i).inputs = s.inputs := rfl
@[simp] theorem State.setInit_trace (s : State) (i : InitState) : (s.setInit i).trace = s.trace := rfl

/-! `State.onReset` -/

@[simp] theorem State.onReset_strap (s : State) : (s.onReset).strap = s.strap := rfl
@[simp] theorem State.onReset_devAddr (s : State) : (s.onReset).devAddr = deviceAddress s.strap := rfl
@[simp] theorem State.onReset_life (s : State) : (s.onReset).life = .active := rfl
@[simp] theorem State.onReset_initState (s : State) : (s.onReset).initState = .start := rfl
@[simp] theorem State.onReset_seq (s : State) : (s.onReset).seq = 0 := rfl
@[simp] theorem State.onReset_run (s : State) : (s.onReset).run = .idle := rfl
@[simp] theorem State.onReset_pending (s : State) : (s.onReset).pending = none := rfl
@[simp] theorem State.onReset_hostPort (s : State) : (s.onReset).hostPort = offersAfterReset s.hostPort := rfl
@[simp] theorem State.onReset_inputs (s : State) : (s.onReset).inputs = s.inputs := rfl
@[simp] theorem State.onReset_trace (s : State) : (s.onReset).trace = s.trace := rfl

/-! `State.loadScr` changes only `RUN` -/

@[simp] theorem State.loadScr_strap (s : State) (read : Option (List Byte)) : (s.loadScr read).strap = s.strap := by unfold State.loadScr; split <;> rfl
@[simp] theorem State.loadScr_devAddr (s : State) (read : Option (List Byte)) : (s.loadScr read).devAddr = s.devAddr := by unfold State.loadScr; split <;> rfl
@[simp] theorem State.loadScr_life (s : State) (read : Option (List Byte)) : (s.loadScr read).life = s.life := by unfold State.loadScr; split <;> rfl
@[simp] theorem State.loadScr_initState (s : State) (read : Option (List Byte)) : (s.loadScr read).initState = s.initState := by unfold State.loadScr; split <;> rfl
@[simp] theorem State.loadScr_seq (s : State) (read : Option (List Byte)) : (s.loadScr read).seq = s.seq := by unfold State.loadScr; split <;> rfl
@[simp] theorem State.loadScr_pending (s : State) (read : Option (List Byte)) : (s.loadScr read).pending = s.pending := by unfold State.loadScr; split <;> rfl
@[simp] theorem State.loadScr_hostPort (s : State) (read : Option (List Byte)) : (s.loadScr read).hostPort = s.hostPort := by unfold State.loadScr; split <;> rfl
@[simp] theorem State.loadScr_inputs (s : State) (read : Option (List Byte)) : (s.loadScr read).inputs = s.inputs := by unfold State.loadScr; split <;> rfl
@[simp] theorem State.loadScr_trace (s : State) (read : Option (List Byte)) : (s.loadScr read).trace = s.trace := by unfold State.loadScr; split <;> rfl

/-! `State.keep` changes only `RUN` -/

@[simp] theorem State.keep_strap (s : State) (f : Partial → Partial) : (s.keep f).strap = s.strap := by unfold State.keep; split <;> rfl
@[simp] theorem State.keep_devAddr (s : State) (f : Partial → Partial) : (s.keep f).devAddr = s.devAddr := by unfold State.keep; split <;> rfl
@[simp] theorem State.keep_life (s : State) (f : Partial → Partial) : (s.keep f).life = s.life := by unfold State.keep; split <;> rfl
@[simp] theorem State.keep_initState (s : State) (f : Partial → Partial) : (s.keep f).initState = s.initState := by unfold State.keep; split <;> rfl
@[simp] theorem State.keep_seq (s : State) (f : Partial → Partial) : (s.keep f).seq = s.seq := by unfold State.keep; split <;> rfl
@[simp] theorem State.keep_pending (s : State) (f : Partial → Partial) : (s.keep f).pending = s.pending := by unfold State.keep; split <;> rfl
@[simp] theorem State.keep_hostPort (s : State) (f : Partial → Partial) : (s.keep f).hostPort = s.hostPort := by unfold State.keep; split <;> rfl
@[simp] theorem State.keep_inputs (s : State) (f : Partial → Partial) : (s.keep f).inputs = s.inputs := by unfold State.keep; split <;> rfl
@[simp] theorem State.keep_trace (s : State) (f : Partial → Partial) : (s.keep f).trace = s.trace := by unfold State.keep; split <;> rfl

/-- Loading `SCR` keeps the operation and the results decoded so far. -/
@[simp] theorem State.loadScr_run (s : State) (bs : List Byte) (op : Instr) (scr : List Byte) (acc : Partial)
    (h : s.run = .running op scr acc) : (s.loadScr (some bs)).run = .running op bs acc := by
  simp [State.loadScr, h]

/-- An answer without bytes leaves the state as it is. -/
@[simp] theorem State.loadScr_none (s : State) : s.loadScr none = s := by
  cases h : s.run <;> simp [State.loadScr]

/-- Keeping a result keeps the operation and `SCR`. -/
theorem State.keep_run (s : State) (f : Partial → Partial) (op : Instr) (scr : List Byte) (acc : Partial)
    (h : s.run = .running op scr acc) : (s.keep f).run = .running op scr (f acc) := by
  simp [State.keep, h]

/-- `SCR` of a running operation. -/
theorem State.scr_running (s : State) (op : Instr) (scr : List Byte) (acc : Partial)
    (h : s.run = .running op scr acc) : s.scr = scr := by
  simp [State.scr, h]

/-- The results decoded so far by a running operation. -/
theorem State.partialResults_running (s : State) (op : Instr) (scr : List Byte) (acc : Partial)
    (h : s.run = .running op scr acc) : s.partialResults = acc := by
  simp [State.partialResults, h]

/-- `BUSY` is clear exactly while nothing runs (`10_state.md` R28). -/
theorem State.busy_eq_false (s : State) : s.busy = false ↔ s.run = .idle := by
  cases h : s.run <;> simp [State.busy, h]

/-- `BUSY` is set exactly while an operation runs (`10_state.md` R28). -/
theorem State.busy_eq_true (s : State) : s.busy = true ↔ ∃ op scr acc, s.run = .running op scr acc := by
  cases h : s.run <;> simp [State.busy, h]

end Sys2Proof.Machine
end

