-- ==== Sys2Proof/Laws/Engine.lean ====
section
/-! SUPPORT. What each operation of the engine can do, said once: one lemma per shared operation, which later proofs
cite instead of unfolding it. -/

namespace Sys2Proof.Machine

/-- An answer is good exactly when it has the shape the outstanding request asks for. -/
theorem receive_good (p : Option Request) (a : Answer) (read : Option (List Byte)) (h : receive p a = .good read) :
    (∃ dev bs, p = some (.busWrite dev bs) ∧ a = .wrote ∧ read = none) ∨
    (∃ dev wbs n bs, p = some (.busWriteRead dev wbs n) ∧ a = .data bs ∧ bs.length = n ∧ read = some bs) ∨
    (∃ n, p = some (.delayMs n) ∧ a = .elapsed ∧ read = none) := by
  unfold receive at h
  split at h <;> first | (simp only [Reception.good.injEq] at h; subst h; simp) | (split at h <;> simp_all) | simp at h

/-- A transport error is one answered to a bus request. -/
theorem receive_bad (p : Option Request) (a : Answer) (t : BusErr) (h : receive p a = .bad t) :
    a = .err t ∧ ((∃ dev bs, p = some (.busWrite dev bs)) ∨ ∃ dev wbs n, p = some (.busWriteRead dev wbs n)) := by
  unfold receive at h
  split at h <;> first | (simp only [Reception.bad.injEq] at h; subst h; simp) | (split at h <;> simp at h) | simp at h

/-- An operation without an outstanding request takes no answer. -/
@[simp] theorem receive_none (a : Answer) : receive none a = .unsolicited := rfl

/-- A write answered `Ok`. -/
@[simp] theorem receive_wrote (dev : Addr7) (bs : List Byte) :
    receive (some (.busWrite dev bs)) .wrote = .good none := rfl

/-- A read answered with as many bytes as it asked for. -/
theorem receive_data (dev : Addr7) (wbs bs : List Byte) (n : Nat) (h : bs.length = n) :
    receive (some (.busWriteRead dev wbs n)) (.data bs) = .good (some bs) := by
  simp [receive, h]

/-- A delay completed. -/
@[simp] theorem receive_elapsed (n : Nat) : receive (some (.delayMs n)) .elapsed = .good none := rfl

/-- A write answered `Err(t)`. -/
@[simp] theorem receive_write_err (dev : Addr7) (bs : List Byte) (t : BusErr) :
    receive (some (.busWrite dev bs)) (.err t) = .bad t := rfl

/-- A read answered `Err(t)`. -/
@[simp] theorem receive_read_err (dev : Addr7) (wbs : List Byte) (n : Nat) (t : BusErr) :
    receive (some (.busWriteRead dev wbs n)) (.err t) = .bad t := rfl

/-- Issuing request `k` of the table. -/
theorem issueAt_some (m : MicroOp) (k : Nat) (s : State) (q : MicroReq) (h : m.table[k]? = some q) :
    issueAt m k s = { s with seq := k }.issue (toRequest s.devAddr q) := by
  simp [issueAt, h]

/-- Issuing changes `SEQ`, the outstanding request and the trace, and nothing else. -/
theorem issueAt_frame (m : MicroOp) (k : Nat) (s : State) :
    (issueAt m k s).strap = s.strap ∧ (issueAt m k s).devAddr = s.devAddr ∧ (issueAt m k s).life = s.life ∧
    (issueAt m k s).initState = s.initState ∧ (issueAt m k s).seq = k ∧ (issueAt m k s).run = s.run ∧
    (issueAt m k s).hostPort = s.hostPort ∧ (issueAt m k s).inputs = s.inputs := by
  unfold issueAt; split <;> simp

/-- What a turn does: a good answer and then the next request; a good answer or a transport error and then the end;
nothing, for an answer nobody asked for; a stop, for a shape the transport never answers with. -/
theorem takeTurn_cases (m : MicroOp) (a : Answer) (s : State) :
    (∃ read, receive s.pending a = .good read ∧
      takeTurn m a s = proceed m s.seq (m.after s.seq ((s.takeAnswer a).loadScr read))) ∨
    (∃ t, receive s.pending a = .bad t ∧ takeTurn m a s = proceed m s.seq (m.onErr s.seq t (s.takeAnswer a))) ∨
    (receive s.pending a = .unsolicited ∧ takeTurn m a s = .goesOn s) ∨
    (receive s.pending a = .violation ∧ takeTurn m a s = .broken) := by
  unfold takeTurn
  split <;> simp_all

/-- Going on is issuing the next request. -/
@[simp] theorem proceed_next (m : MicroOp) (k : Nat) (s : State) :
    proceed m k (.next s) = .goesOn (issueAt m (k + 1) s) := rfl

/-- Ending is ending. -/
@[simp] theorem proceed_done (m : MicroOp) (k : Nat) (s : State) : proceed m k (.done s) = .ended s := rfl

/-- No input left: the operation is held (`60_exceptions.md` R284). -/
@[simp] theorem drive_nil (m : MicroOp) (s : State) : drive m [] s = .next { s with inputs := [] } := rfl

/-- An offer made while an operation runs waits (`60_exceptions.md` R283). -/
@[simp] theorem drive_offer (m : MicroOp) (o : List Byte) (rest : List Input) (s : State) :
    drive m (.offer o :: rest) s = drive m rest (s.enqueue o) := rfl

/-- Reset ends the operation (`70_reset_and_hazards.md` R311). -/
@[simp] theorem drive_reset (m : MicroOp) (rest : List Input) (s : State) :
    drive m (.reset :: rest) s = .next { s with inputs := rest }.onReset := rfl

/-- An answer after which the operation goes on. -/
theorem drive_goesOn (m : MicroOp) (a : Answer) (rest : List Input) (s s' : State) (h : takeTurn m a s = .goesOn s') :
    drive m (.answer a :: rest) s = drive m rest s' := by
  simp [drive, h]

/-- An answer after which the operation has ended. -/
theorem drive_ended (m : MicroOp) (a : Answer) (rest : List Input) (s s' : State) (h : takeTurn m a s = .ended s') :
    drive m (.answer a :: rest) s = .next { s' with inputs := rest } := by
  simp [drive, h]

/-- An answer of a shape the transport never gives. -/
theorem drive_broken (m : MicroOp) (a : Answer) (rest : List Input) (s : State) (h : takeTurn m a s = .broken) :
    drive m (.answer a :: rest) s = .fault .transportContract := by
  simp [drive, h]

/-- The engine never refuses. -/
theorem drive_ne_refused (m : MicroOp) (xs : List Input) (s : State) (r : Refusal) : drive m xs s ≠ .refused r := by
  induction xs generalizing s with
  | nil => simp
  | cons x rest ih =>
    cases x with
    | offer o => simpa using ih _
    | reset => simp
    | answer a =>
      cases h : takeTurn m a s with
      | goesOn s' => simpa [drive, h] using ih s'
      | ended s' => simp [drive, h]
      | broken => simp [drive, h]

/-- The engine keeps a property of the state that every way of taking an input keeps. -/
theorem drive_keeps (P : State → Prop) (m : MicroOp)
    (hInputs : ∀ (s : State) (xs : List Input), P s → P { s with inputs := xs })
    (hOffer : ∀ (s : State) (o : List Byte), P s → P (s.enqueue o))
    (hReset : ∀ s : State, P s → P s.onReset)
    (hGoesOn : ∀ (a : Answer) (s s' : State), P s → takeTurn m a s = .goesOn s' → P s')
    (hEnded : ∀ (a : Answer) (s s' : State), P s → takeTurn m a s = .ended s' → P s') :
    ∀ (xs : List Input) (s s' : State), P s → drive m xs s = .next s' → P s' := by
  intro xs
  induction xs with
  | nil =>
    intro s s' hs h
    simp only [drive_nil, Host.Outcome.next.injEq] at h
    exact h ▸ hInputs s [] hs
  | cons x rest ih =>
    intro s s' hs h
    cases x with
    | offer o => exact ih _ s' (hOffer s o hs) (by simpa using h)
    | reset =>
      simp only [drive_reset, Host.Outcome.next.injEq] at h
      exact h ▸ hReset _ (hInputs s rest hs)
    | answer a =>
      cases ht : takeTurn m a s with
      | goesOn s1 => exact ih s1 s' (hGoesOn a s s1 hs ht) (by simpa [drive, ht] using h)
      | ended s1 =>
        simp only [drive, ht, Host.Outcome.next.injEq] at h
        exact h ▸ hInputs s1 rest (hEnded a s s1 hs ht)
      | broken => simp [drive, ht] at h

/-- A protocol operation waits while another runs (`60_exceptions.md` R283). -/
theorem protocolOp_busy (i op : Instr) (m : MicroOp) (s : State) (scr : List Byte) (acc : Partial)
    (h : s.run = .running op scr acc) : protocolOp i m s = .next (s.enqueue (encode i)) := by
  simp [protocolOp, h]

/-- A protocol operation is refused after `RELEASE`, whatever its operands (`60_exceptions.md` R281). -/
theorem protocolOp_released (i : Instr) (m : MicroOp) (s : State) (hr : s.run = .idle) (hl : s.life = .released) :
    protocolOp i m s = .next (s.refuse .released) := by
  simp [protocolOp, hr, hl]

/-- A protocol operation is refused for an operand outside its domain (`30_encoding.md` R85). -/
theorem protocolOp_badOperand (i : Instr) (m : MicroOp) (s : State) (hr : s.run = .idle) (hl : s.life = .active)
    (ho : operandOk i = false) : protocolOp i m s = .next (s.refuse .badOperand) := by
  simp [protocolOp, hr, hl, ho]

/-- A protocol operation is accepted and launched (`41_bus_primitives.md` R160). -/
theorem protocolOp_accepted (i : Instr) (m : MicroOp) (s : State) (hr : s.run = .idle) (hl : s.life = .active)
    (ho : operandOk i = true) : protocolOp i m s = launch m (m.onAccept (s.accept i)) := by
  simp [protocolOp, hr, hl, ho]

/-- An operation with a table issues its first request and is driven. -/
theorem launch_table (m : MicroOp) (q : MicroReq) (qs : List MicroReq) (s : State) (h : m.table = q :: qs) :
    launch m s = drive m s.inputs (issueAt m 0 s) := by
  simp [launch, h]

/-- A codec operation waits while another operation runs (`60_exceptions.md` R283). -/
theorem codecOp_busy (i op : Instr) (v : Value) (s : State) (scr : List Byte) (acc : Partial)
    (h : s.run = .running op scr acc) : codecOp i v s = .next (s.enqueue (encode i)) := by
  simp [codecOp, h]

/-- A codec operation is answered at once (`40_codec.md` R120). -/
theorem codecOp_idle (i : Instr) (v : Value) (s : State) (h : s.run = .idle) :
    codecOp i v s = .next (s.emit (.responded (.ok v))) := by
  simp [codecOp, h]

/-- Every meaning is a protocol operation with the micro-sequence the block goes on with, or a codec operation. -/
theorem exec_cases (i : Instr) (s : State) :
    (i.isProtocol = true ∧ exec i s = protocolOp i (microOf i) s) ∨
    (i.isProtocol = false ∧ ∃ v, exec i s = codecOp i v s) := by
  cases i <;>
    first
      | exact Or.inl ⟨by rfl, rfl⟩
      | exact Or.inr ⟨by rfl, _, rfl⟩

/-- The low byte as a remainder. -/
theorem lo8_eq_ofNat (v : U16) : lo8 v = BitVec.ofNat 8 v.toNat := by
  apply BitVec.eq_of_toNat_eq; simp [lo8]

/-- The high byte as a quotient. -/
theorem hi8_eq_ofNat (v : U16) : hi8 v = BitVec.ofNat 8 (v.toNat / 256) := by
  apply BitVec.eq_of_toNat_eq; simp [hi8, Nat.shiftRight_eq_div_pow]

/-- The engine's table of an operation, sent to `dev`, is the list the spec's rule gives. -/
theorem microOf_table (dev : Addr7) (i : Instr) :
    (microOf i).table.map (toRequest dev) = Safety.requestsOf dev i := by
  cases i
  case setTempRhComp c rh =>
    simp only [Safety.requestsOf, ← lo8_eq_ofNat, ← hi8_eq_ofNat]
    rfl
  all_goals rfl

/-- A step of a busy block goes on with the running operation. -/
theorem step_running (s : State) (op : Instr) (scr : List Byte) (acc : Partial) (h : s.run = .running op scr acc) :
    step s = drive (microOf op) s.inputs s := by
  simp [step, fetch, h, resume]

/-- A step of an idle block with nothing offered takes an input. -/
theorem step_idle_input (s : State) (hr : s.run = .idle) (hp : s.hostPort = []) : step s = takeInput s := by
  simp [step, fetch, hr, hp]

/-- A step of an idle block with an offer that is no operation refuses it. -/
theorem step_idle_reject (s : State) (o : List Byte) (rest : List (List Byte)) (e : DecodeError)
    (hr : s.run = .idle) (hp : s.hostPort = o :: rest) (hd : decode o = .reject e) :
    step s = .next ({ s with hostPort := rest }.refuse (refusalOf s.life e)) := by
  simp [step, fetch, hr, hp, takeOffer, hd]

end Sys2Proof.Machine
end

