-- ==== Sys2Proof/Laws/Float32.lean ====
section
/-! SUPPORT. What the operations of the binary32 arithmetic can do, said once. -/

namespace Sys2Proof.Machine

/-- 273.15 as binary32 is 8950579 / 2^15 (`00_scope.md` R10, D15). -/
theorem unpack_kelvinOffset : unpack kelvinOffset = .fin false 8950579 (-15) := by decide

/-- 64.0 is 2^23 / 2^17. -/
theorem unpack_tempScale : unpack tempScale = .fin false (2 ^ 23) (-17) := by decide

/-- 2048.0 is 2^23 / 2^12. -/
theorem unpack_resScale : unpack resScale = .fin false (2 ^ 23) (-12) := by decide

/-- A finite pattern has fewer than 25 significant bits and an exponent of a binary32 value. -/
theorem unpack_fin (x : F32) (s : Bool) (m : Nat) (e : Int) (h : unpack x = .fin s m e) :
    m < 2 ^ 24 ∧ -149 ≤ e ∧ e ≤ 104 := by
  have he := (x.extractLsb' 23 8).isLt
  have hf := (x.extractLsb' 0 23).isLt
  simp only [unpack] at h
  split at h
  · split at h <;> cases h
  · split at h <;> simp only [FVal.fin.injEq] at h <;> obtain ⟨-, rfl, rfl⟩ := h <;> omega

/-- `roundShift` is off by at most half, and even where it is off by half. -/
theorem roundShift_spec (n d : Nat) :
    2 * (roundShift n d * 2 ^ d) ≤ 2 * n + 2 ^ d ∧ 2 * n ≤ 2 * (roundShift n d * 2 ^ d) + 2 ^ d ∧
    (2 * (roundShift n d * 2 ^ d) = 2 * n + 2 ^ d → roundShift n d % 2 = 0) ∧
    (2 * n = 2 * (roundShift n d * 2 ^ d) + 2 ^ d → roundShift n d % 2 = 0) := by
  have hdm := Nat.div_add_mod n (2 ^ d)
  have hlt := Nat.mod_lt n (Nat.two_pow_pos d)
  unfold roundShift
  generalize 2 ^ d = p at *
  generalize n / p = q at *
  generalize n % p = r at *
  dsimp only
  have hmul : (q + 1) * p = p * q + p := by ring
  have hmul' : q * p = p * q := Nat.mul_comm q p
  split
  · rw [hmul]; omega
  · rw [hmul']; omega

/-- A number with at most 24 bits is a binary32 value. -/
theorem valueOf_roundTo_small (neg : Bool) (n : Nat) (h : n < 2 ^ 24) :
    valueOf (roundTo neg n 0) = some (signed neg n : Rat) := by
  unfold roundTo
  split
  · rename_i h0; subst h0; cases neg <;> simp [valueOf, signed]
  · rename_i h0
    have hlog : Nat.log2 n ≤ 23 := by
      have := (Nat.log2_lt h0).2 h
      omega
    have hself : 2 ^ Nat.log2 n ≤ n := Nat.log2_self_le h0
    have hup : n < 2 ^ (Nat.log2 n + 1) := Nat.lt_log2_self
    have ht : max ((0 : Int) + Nat.log2 n - 23) (-149) = (Nat.log2 n : Int) - 23 := by omega
    have hm : n * 2 ^ ((0 : Int) - ((Nat.log2 n : Int) - 23)).toNat < 2 ^ 24 := by
      have e : ((0 : Int) - ((Nat.log2 n : Int) - 23)).toNat = 23 - Nat.log2 n := by omega
      rw [e]
      calc n * 2 ^ (23 - Nat.log2 n) < 2 ^ (Nat.log2 n + 1) * 2 ^ (23 - Nat.log2 n) :=
            Nat.mul_lt_mul_of_pos_right hup (Nat.two_pow_pos _)
        _ = 2 ^ 24 := by rw [← Nat.pow_add]; congr 1; omega
    dsimp only
    rw [ht, if_pos (by omega : (Nat.log2 n : Int) - 23 ≤ 0), if_neg (Nat.ne_of_lt hm),
      if_pos (by omega : (Nat.log2 n : Int) - 23 ≤ 104)]
    have e : ((0 : Int) - ((Nat.log2 n : Int) - 23)).toNat = 23 - Nat.log2 n := by omega
    have e2 : ((Nat.log2 n : Int) - 23) = -((23 - Nat.log2 n : Nat) : Int) := by omega
    rw [e, e2]
    have hp : (2 : Rat) ^ (23 - Nat.log2 n) ≠ 0 := by positivity
    cases neg <;> simp [valueOf, signed, zpow_neg, hp]

/-- `u16_to_f32` is exact (`00_scope.md` R16). -/
theorem valueOf_u16ToF32 (v : U16) : valueOf (u16ToF32 v) = some (v.toNat : Rat) := by
  have := valueOf_roundTo_small false v.toNat (by have := v.isLt; omega)
  simpa [u16ToF32, signed] using this

/-- The search never leaves its range. -/
theorem exp2Search_range (f k acc : Nat) : acc ≤ exp2Search f k acc ∧ exp2Search f k acc < acc + 2 ^ k := by
  induction k generalizing acc with
  | zero => simp [exp2Search]
  | succ k ih =>
    have hp : 2 ^ (k + 1) = 2 ^ k + 2 ^ k := by omega
    have h1 := ih acc
    have h2 := ih (acc + 2 ^ k)
    simp only [exp2Search]
    split <;> omega

/-- What the search finds lies below the target, if what it starts from does. -/
theorem exp2Search_below (f k acc : Nat) (h : belowExp2 f acc = true) : belowExp2 f (exp2Search f k acc) = true := by
  induction k generalizing acc with
  | zero => simpa [exp2Search] using h
  | succ k ih =>
    simp only [exp2Search]
    split
    · exact ih _ (by assumption)
    · exact ih _ h

/-- Lying below the target is inherited downwards. -/
theorem belowExp2_mono (f m n : Nat) (hmn : m ≤ n) (h : belowExp2 f n = true) : belowExp2 f m = true := by
  have hle : 2 * m - 1 ≤ 2 * n - 1 := by omega
  exact decide_eq_true (Nat.lt_of_le_of_lt (Nat.pow_le_pow_left hle 2048) (of_decide_eq_true h))

/-- What the search finds is the greatest number of its range that lies below the target. -/
theorem exp2Search_greatest (f k acc : Nat) (n : Nat) (hn : n < acc + 2 ^ k) (h : belowExp2 f n = true) :
    n ≤ exp2Search f k acc := by
  induction k generalizing acc with
  | zero => simp only [exp2Search]; omega
  | succ k ih =>
    have hp : 2 ^ (k + 1) = 2 ^ k + 2 ^ k := by omega
    simp only [exp2Search]
    split
    · exact ih _ (by omega)
    · rename_i hb
      refine ih _ ?_
      by_contra hc
      exact hb (belowExp2_mono f _ n (by omega) h)

end Sys2Proof.Machine
end

