-- ==== Sys2Proof/Laws/PerInstr.lean ====
section
/-! SUPPORT. One family of statements, one lemma per operation: the length the block learns from an operation's first
bytes (`30_encoding.md` R80, R81, R101) is the length of its byte string. -/

namespace Sys2Proof.Laws.Encoding

/-- The length read from the first bytes of a well-formed operation is its whole length. -/
def Statement (i : Instr) : Prop :=
  i.wellFormed = true → operationLength (encode i) = (encode i).length

theorem writeCommand (bytes : List Byte) : Statement (.writeCommand bytes) := by
  intro h
  have hl : bytes.length % 256 = bytes.length := Nat.mod_eq_of_lt (by simp [Instr.wellFormed] at h; omega)
  simp only [encode, Instr.opcode, Instr.operandBytes, operationLength, List.headD_cons, BitVec.toNat_ofNat,
    List.length_cons, Nat.reducePow, hl]
  omega

theorem readRegister (reg n : Byte) : Statement (.readRegister reg n) := fun _ => rfl
theorem setOperationMode (mode : Byte) : Statement (.setOperationMode mode) := fun _ => rfl
theorem getPartId : Statement .getPartId := fun _ => rfl
theorem getFirmwareVersion : Statement .getFirmwareVersion := fun _ => rfl
theorem clearCommand : Statement .clearCommand := fun _ => rfl
theorem getEco2 : Statement .getEco2 := fun _ => rfl
theorem getTvoc : Statement .getTvoc := fun _ => rfl
theorem getAirqualityIndex : Statement .getAirqualityIndex := fun _ => rfl
theorem getEtoh : Statement .getEtoh := fun _ => rfl
theorem getRawResistance : Statement .getRawResistance := fun _ => rfl
theorem getStatus : Statement .getStatus := fun _ => rfl
theorem getGroupData : Statement .getGroupData := fun _ => rfl
theorem setTempRhComp (celsius : F32) (rhPercent : U16) : Statement (.setTempRhComp celsius rhPercent) := fun _ => rfl
theorem getTempRhComp : Statement .getTempRhComp := fun _ => rfl
theorem configInterruptPin (config : Byte) : Statement (.configInterruptPin config) := fun _ => rfl
theorem initializeSensor : Statement .initializeSensor := fun _ => rfl
theorem getMeasurements : Statement .getMeasurements := fun _ => rfl
theorem release : Statement .release := fun _ => rfl
theorem decodeStatus (b : Byte) : Statement (.decodeStatus b) := fun _ => rfl
theorem decodeAqi (b : Byte) : Statement (.decodeAqi b) := fun _ => rfl
theorem decodeU16Le (b0 b1 : Byte) : Statement (.decodeU16Le b0 b1) := fun _ => rfl
theorem encodeTempComp (celsius : F32) : Statement (.encodeTempComp celsius) := fun _ => rfl
theorem decodeTempComp (raw : U16) : Statement (.decodeTempComp raw) := fun _ => rfl
theorem decodeRawResistance (raw : U16) : Statement (.decodeRawResistance raw) := fun _ => rfl
theorem icfgBuilder : Statement .icfgBuilder := fun _ => rfl
theorem icfgActiveHigh (v : Byte) : Statement (.icfgActiveHigh v) := fun _ => rfl
theorem icfgActiveLow (v : Byte) : Statement (.icfgActiveLow v) := fun _ => rfl
theorem icfgPushPull (v : Byte) : Statement (.icfgPushPull v) := fun _ => rfl
theorem icfgOpenDrain (v : Byte) : Statement (.icfgOpenDrain v) := fun _ => rfl
theorem icfgOnNewData (v : Byte) : Statement (.icfgOnNewData v) := fun _ => rfl
theorem icfgOffNewData (v : Byte) : Statement (.icfgOffNewData v) := fun _ => rfl
theorem icfgOnNewGroupData (v : Byte) : Statement (.icfgOnNewGroupData v) := fun _ => rfl
theorem icfgOffNewGroupData (v : Byte) : Statement (.icfgOffNewGroupData v) := fun _ => rfl
theorem icfgEnableInterrupt (v : Byte) : Statement (.icfgEnableInterrupt v) := fun _ => rfl
theorem icfgDisableInterrupt (v : Byte) : Statement (.icfgDisableInterrupt v) := fun _ => rfl

end Sys2Proof.Laws.Encoding
end

