-- ==== Sys2Proof/Tests/Slice0.lean ====
section
/-! SUPPORT. Tests: the smoke test of WellFormed, every operation's decoding from bytes written out from
`30_encoding.md` R80 to R82, behaviour against the vectors of `95_test_vectors.md` (each named in its theorem's
docstring), and for every statement with hypotheses a theorem that shows them met. -/

namespace Sys2Proof.Tests

open Sys2Proof.Machine Sys2Proof.Safety

set_option Elab.async false

/-! ## Helpers -/

/-- An accepting block with these inputs to come. -/
def ready (xs : List Input) : State := { State.reset with inputs := xs }

/-- The block right after reset, with one operation offered and these answers to come. -/
def offered (bytes : List Byte) (as : List Answer) : State :=
  { State.reset with hostPort := [bytes], inputs := as.map .answer }

/-- A released block with one operation offered. -/
def offeredReleased (bytes : List Byte) : State := { offered bytes [] with life := .released }

/-- A released block at rest. -/
def released : State := { State.reset with life := .released }

/-- `GET_STATUS` held at its request. -/
def held : State :=
  { State.reset with
    run := .running .getStatus [] Partial.none
    pending := some (.busWriteRead 0x52#7 [0x20] 1) }

/-- `INITIALIZE` held at request `k`. -/
def heldInit (k : Nat) : State :=
  { State.reset with
    run := .running .initializeSensor [] Partial.none
    seq := k
    initState := initStateAt k
    pending := (initRequests 0x52#7)[k]? }

/-- The state after a step that went on. -/
def after (o : StepOutcome) : Option State :=
  match o with
  | .next s => some s
  | .fault _ => none
  | .refused _ => none

/-- The responses the host has received, as bytes. -/
def heard (o : StepOutcome) : Option (List (List Byte)) := (after o).map fun s => hostReceives s.trace

/-- The events on the ports. -/
def seen (o : StepOutcome) : Option (List Event) := (after o).map fun s => s.trace

/-- The transport error value of the tests. -/
def t0 : BusErr := ⟨[0xEE]⟩

/-! ## WellFormed -/

/-- A byte list that no `LEN` counts is refused (R101). -/
theorem test_wellFormed_refuses_long : (Instr.writeCommand (List.replicate 256 0)).wellFormed = false := by
  decide +kernel

/-- The longest byte list is admitted. -/
theorem test_wellFormed_admits_longest : (Instr.writeCommand (List.replicate 255 0)).wellFormed = true := by
  decide +kernel

/-! ## Decoding: bytes from `30_encoding.md` R81, R82, R102 -/

theorem test_decode_writeCommand : decode [0x01, 0x03, 0x5A, 0x01, 0x02] = .instr (.writeCommand [0x5A, 0x01, 0x02]) := by
  decide
theorem test_decode_readRegister : decode [0x02, 0x48, 0x08] = .instr (.readRegister 0x48 8) := by decide
theorem test_decode_setOperationMode : decode [0x03, 0xF0] = .instr (.setOperationMode 0xF0) := by decide
theorem test_decode_getPartId : decode [0x04] = .instr .getPartId := by decide
theorem test_decode_getFirmwareVersion : decode [0x05] = .instr .getFirmwareVersion := by decide
theorem test_decode_clearCommand : decode [0x06] = .instr .clearCommand := by decide
theorem test_decode_getEco2 : decode [0x07] = .instr .getEco2 := by decide
theorem test_decode_getTvoc : decode [0x08] = .instr .getTvoc := by decide
theorem test_decode_getAirqualityIndex : decode [0x09] = .instr .getAirqualityIndex := by decide
theorem test_decode_getEtoh : decode [0x0A] = .instr .getEtoh := by decide
theorem test_decode_getRawResistance : decode [0x0B] = .instr .getRawResistance := by decide
theorem test_decode_getStatus : decode [0x0C] = .instr .getStatus := by decide
theorem test_decode_getGroupData : decode [0x0D] = .instr .getGroupData := by decide
theorem test_decode_setTempRhComp :
    decode [0x0E, 0x00, 0x00, 0xC8, 0x41, 0x2C, 0x01] = .instr (.setTempRhComp 0x41C80000 300) := by decide
theorem test_decode_getTempRhComp : decode [0x0F] = .instr .getTempRhComp := by decide
theorem test_decode_configInterruptPin : decode [0x10, 0x23] = .instr (.configInterruptPin 0x23) := by decide
theorem test_decode_initialise : decode [0x11] = .instr .initializeSensor := by decide
theorem test_decode_getMeasurements : decode [0x12] = .instr .getMeasurements := by decide
theorem test_decode_release : decode [0x13] = .instr .release := by decide
theorem test_decode_decodeStatus : decode [0x20, 0x86] = .instr (.decodeStatus 0x86) := by decide
theorem test_decode_decodeAqi : decode [0x21, 0x0B] = .instr (.decodeAqi 0x0B) := by decide
theorem test_decode_decodeU16Le : decode [0x22, 0x60, 0x01] = .instr (.decodeU16Le 0x60 0x01) := by decide
theorem test_decode_encodeTempComp : decode [0x23, 0x9A, 0x99, 0xAD, 0x41] = .instr (.encodeTempComp 0x41AD999A) := by
  decide
theorem test_decode_decodeTempComp : decode [0x24, 0x49, 0x3F] = .instr (.decodeTempComp 16201) := by decide
theorem test_decode_decodeRawResistance : decode [0x25, 0x00, 0x08] = .instr (.decodeRawResistance 2048) := by decide
theorem test_decode_icfgBuilder : decode [0x30] = .instr .icfgBuilder := by decide
theorem test_decode_icfgActiveHigh : decode [0x31, 0x94] = .instr (.icfgActiveHigh 0x94) := by decide
theorem test_decode_icfgActiveLow : decode [0x32, 0x94] = .instr (.icfgActiveLow 0x94) := by decide
theorem test_decode_icfgPushPull : decode [0x33, 0x94] = .instr (.icfgPushPull 0x94) := by decide
theorem test_decode_icfgOpenDrain : decode [0x34, 0x94] = .instr (.icfgOpenDrain 0x94) := by decide
theorem test_decode_icfgOnNewData : decode [0x35, 0x94] = .instr (.icfgOnNewData 0x94) := by decide
theorem test_decode_icfgOffNewData : decode [0x36, 0x94] = .instr (.icfgOffNewData 0x94) := by decide
theorem test_decode_icfgOnNewGroupData : decode [0x37, 0x94] = .instr (.icfgOnNewGroupData 0x94) := by decide
theorem test_decode_icfgOffNewGroupData : decode [0x38, 0x94] = .instr (.icfgOffNewGroupData 0x94) := by decide
theorem test_decode_icfgEnableInterrupt : decode [0x39, 0x94] = .instr (.icfgEnableInterrupt 0x94) := by decide
theorem test_decode_icfgDisableInterrupt : decode [0x3A, 0x94] = .instr (.icfgDisableInterrupt 0x94) := by decide

/-- Unknown codes at the ends of the gaps of R99. -/
theorem test_decode_unknown :
    [0x00, 0x14, 0x1F, 0x26, 0x2F, 0x3B, 0xFF].map (fun op : Byte => decode [op]) =
      [0x00, 0x14, 0x1F, 0x26, 0x2F, 0x3B, 0xFF].map (fun op : Byte => .reject (.unknownOpcode op)) := by decide

/-- Strings one byte too short or too long, for each format. -/
theorem test_decode_malformed :
    decode [] = .reject .noOpcode ∧ decode [0x01] = .reject (.truncated 0x01) ∧
    decode [0x01, 0x02, 0x5A] = .reject (.truncated 0x01) ∧
    decode [0x01, 0x01, 0x5A, 0x00] = .reject (.overlong 0x01) ∧ decode [0x02, 0x20] = .reject (.truncated 0x02) ∧
    decode [0x03] = .reject (.truncated 0x03) ∧ decode [0x04, 0x00] = .reject (.overlong 0x04) ∧
    decode [0x0E, 0x00, 0x00, 0xC8, 0x41, 0x32] = .reject (.truncated 0x0E) ∧
    decode [0x23, 0x00, 0x00, 0xC8] = .reject (.truncated 0x23) ∧ decode [0x24, 0x00] = .reject (.truncated 0x24) := by
  decide

/-- Words of the opcode table: `GET_STATUS`; `SET_OPERATION_MODE Standard`; `DECODE_TEMP_COMP` with no operand bits
given; `WRITE_COMMAND` with `LEN` 1. -/
theorem test_decodeTableWord :
    decodeTableWord 8 0x0C = some .getStatus ∧ decodeTableWord 16 0x0203 = some (.setOperationMode 0x02) ∧
    decodeTableWord 8 0x24 = some (.decodeTempComp 0) ∧ decodeTableWord 24 0x0E0101 = some (.writeCommand [0x0E]) ∧
    decodeTableWord 8 0x14 = none := by decide +kernel

/-! ## Codec operations, through the host port (V1 to V8) -/

/-- V1. -/
theorem test_decodeStatus : heard (step (offered [0x20, 0xB6] [])) = some [[0x00, 0x00, 0x01, 0x01, 0x00, 0x01]] := by
  decide +kernel
/-- V1. -/
theorem test_decodeStatus_all : heard (step (offered [0x20, 0xFF] [])) = some [[0x00, 0x01, 0x01, 0x03, 0x01, 0x01]] := by
  decide +kernel
/-- V2: no mask. -/
theorem test_decodeAqi : heard (step (offered [0x21, 0x0B] [])) = some [[0x00, 0x06]] := by decide +kernel
/-- V2. -/
theorem test_decodeAqi_last : heard (step (offered [0x21, 0x05] [])) = some [[0x00, 0x05]] := by decide +kernel
/-- V3: an unsigned result, low byte first. -/
theorem test_decodeU16Le : heard (step (offered [0x22, 0x60, 0x81] [])) = some [[0x00, 0x60, 0x81]] := by decide +kernel
/-- V3. -/
theorem test_decodeU16Le_value : le16 0x60 0x01 = 352 := by decide
/-- V4: the sum rounds to exactly 300. -/
theorem test_encodeTempComp : heard (step (offered [0x23, 0xCD, 0xCC, 0xD6, 0x41] [])) = some [[0x00, 0x00, 0x4B]] := by
  decide +kernel
/-- V5: truncation, cancellation, saturation, infinities, NaN. -/
theorem test_encodeTempComp_edges :
    [0xC3888000, 0xC3889333, 0xC3960000, 0x443BB5C3, 0x443BB666, 0x7F800000, 0xFF800000, 0x7FC00000].map tempEncode =
      [9, 0, 0, 65535, 65535, 65535, 0, 0] := by decide +kernel
/-- V6. -/
theorem test_decodeTempComp : heard (step (offered [0x24, 0x89, 0x4A] [])) = some [[0x00, 0xD0, 0xEC, 0xC7, 0x41]] := by
  decide +kernel
/-- V6: both signs of a small result, and the ends. -/
theorem test_decodeTempComp_edges :
    [17481, 17482, 0, 65535].map tempDecode = [0xBC198000, 0x3BCD0000, 0xC3889333, 0x443BB566] := by decide +kernel
/-- V7, an exact point. -/
theorem test_decodeRawResistance : heard (step (offered [0x25, 0x00, 0x10] [])) = some [[0x00, 0x00, 0x00, 0x80, 0x40]] := by
  decide +kernel
/-- V7, under property P3. -/
theorem test_decodeRawResistance_nearest :
    [1, 2047, 10000, 65535].map resistanceDecode = [0x3F800B18, 0x3FFFE9D3, 0x41EC0719, 0x4F7FE9D3] := by decide +kernel

/-- V8: `ICFG_BUILDER`. -/
theorem test_icfgBuilder : heard (step (offered [0x30] [])) = some [[0x00, 0x00]] := by decide +kernel
/-- V8: the set toggles on 0x23. -/
theorem test_icfgActiveHigh : heard (step (offered [0x31, 0x23] [])) = some [[0x00, 0x63]] := by decide +kernel
theorem test_icfgPushPull : heard (step (offered [0x33, 0x00] [])) = some [[0x00, 0x20]] := by decide +kernel
theorem test_icfgOnNewData : heard (step (offered [0x35, 0x00] [])) = some [[0x00, 0x02]] := by decide +kernel
theorem test_icfgOnNewGroupData : heard (step (offered [0x37, 0x23] [])) = some [[0x00, 0x2B]] := by decide +kernel
theorem test_icfgEnableInterrupt : heard (step (offered [0x39, 0x00] [])) = some [[0x00, 0x01]] := by decide +kernel
/-- V8: the clear toggles on 0xFF. -/
theorem test_icfgActiveLow : heard (step (offered [0x32, 0xFF] [])) = some [[0x00, 0xBF]] := by decide +kernel
theorem test_icfgOpenDrain : heard (step (offered [0x34, 0xFF] [])) = some [[0x00, 0xDF]] := by decide +kernel
theorem test_icfgOffNewData : heard (step (offered [0x36, 0xFF] [])) = some [[0x00, 0xFD]] := by decide +kernel
theorem test_icfgOffNewGroupData : heard (step (offered [0x38, 0xFF] [])) = some [[0x00, 0xF7]] := by decide +kernel
theorem test_icfgDisableInterrupt : heard (step (offered [0x3A, 0xFF] [])) = some [[0x00, 0xFE]] := by decide +kernel
/-- S5. -/
theorem test_chain_S5 : chainValue [.activeLow, .pushPull, .onNewData, .enableInterrupt] = 0x23 := by decide
/-- S5, the expansion of `30_encoding.md` R103, as in PROG3. -/
theorem test_chain_expansion :
    (expandChain [.activeLow, .pushPull, .onNewData, .enableInterrupt]).map encode =
      [[0x30], [0x32, 0x00], [0x33, 0x00], [0x35, 0x20], [0x39, 0x22]] := by decide

/-! ## Protocol operations, through the host port (V10 to V31) -/

/-- V10: one byte lies in the domain whatever `CMD_MAX_BYTES` is. -/
theorem test_writeCommand :
    seen (step (offered [0x01, 0x01, 0x0E] [.wrote])) =
      some [.issued (.busWrite 0x52 [0x12, 0x0E]), .answered .wrote, .responded (.ok .unit)] := by
  simp [seen, after, offered, step, fetch, State.reset, takeOffer, decode, formatV, exec, execWriteCommand, protocolOp,
    operandOk, cmdMaxBytes, launch, microWriteCommand, straightLine, State.accept, issueAt, State.issue, drive, takeTurn,
    receive, writeReg, regAddr, toRequest, proceed, State.takeAnswer, State.loadScr, State.succeed, State.finish]
/-- V10: an empty byte list. -/
theorem test_writeCommand_empty : heard (step (offered [0x01, 0x00] [])) = some [[0x02, 0x02]] := by decide +kernel
/-- V11: any address; eight bytes lie in the domain whatever `RD_MAX_BYTES` is. -/
theorem test_readRegister :
    seen (step (offered [0x02, 0x7F, 0x08] [.data [1, 2, 3, 4, 5, 6, 7, 8]])) =
      some [.issued (.busWriteRead 0x52 [0x7F] 8), .answered (.data [1, 2, 3, 4, 5, 6, 7, 8]),
        .responded (.ok (.bytes [1, 2, 3, 4, 5, 6, 7, 8]))] := by
  simp [seen, after, offered, step, fetch, State.reset, takeOffer, decode, formatBB, exec, execReadRegister, protocolOp,
    operandOk, rdMaxBytes, launch, microReadRegister, straightLine, State.accept, issueAt, State.issue, drive, takeTurn,
    receive, toRequest, proceed, State.takeAnswer, State.loadScr, State.succeed, State.finish, State.scr]
/-- V11: no byte asked for. -/
theorem test_readRegister_zero : heard (step (offered [0x02, 0x20, 0x00] [])) = some [[0x02, 0x02]] := by decide +kernel
/-- V20: a mismatch is no error. -/
theorem test_setOperationMode :
    seen (step (offered [0x03, 0x02] [.wrote, .elapsed, .data [0x01]])) =
      some [.issued (.busWrite 0x52 [0x10, 0x02]), .answered .wrote, .issued (.delayMs 50), .answered .elapsed,
        .issued (.busWriteRead 0x52 [0x10] 1), .answered (.data [0x01]), .responded (.ok (.mode 0x01))] := by
  decide +kernel
/-- V12: a byte that names no mode. -/
theorem test_setOperationMode_refused : heard (step (offered [0x03, 0x03] [])) = some [[0x02, 0x02]] := by decide +kernel
/-- V21. -/
theorem test_getPartId : heard (step (offered [0x04] [.data [0x99, 0x00]])) = some [[0x00, 0x99, 0x00]] := by decide +kernel
/-- V21. -/
theorem test_getPartId_error : heard (step (offered [0x04] [.err t0])) = some [[0x01, 0x01, 0xEE]] := by decide +kernel
/-- V22. -/
theorem test_getFirmwareVersion :
    heard (step (offered [0x05] [.wrote, .data [0xAA, 0xBB, 0xCC, 0xDD, 5, 4, 6, 0xEE]])) = some [[0x00, 5, 4, 6]] := by
  decide +kernel
/-- V24: the first write fails, the second is not sent. -/
theorem test_clearCommand_failFast :
    seen (step (offered [0x06] [.err t0])) =
      some [.issued (.busWrite 0x52 [0x12, 0x00]), .answered (.err t0), .responded (.err (.busError t0))] := by
  decide +kernel
/-- V24. -/
theorem test_clearCommand :
    seen (step (offered [0x06] [.wrote, .wrote])) =
      some [.issued (.busWrite 0x52 [0x12, 0x00]), .answered .wrote, .issued (.busWrite 0x52 [0x12, 0xCC]),
        .answered .wrote, .responded (.ok .unit)] := by decide +kernel
/-- V25. -/
theorem test_getEco2 : heard (step (offered [0x07] [.data [0x90, 0x01]])) = some [[0x00, 0x90, 0x01]] := by decide +kernel
/-- V23. -/
theorem test_getTvoc :
    seen (step (offered [0x08] [.data [0x2C, 0x01]])) = some [.issued (.busWriteRead 0x52 [0x22] 2),
      .answered (.data [0x2C, 0x01]), .responded (.ok (.u16 300))] := by decide +kernel
/-- V25. -/
theorem test_getAirqualityIndex : heard (step (offered [0x09] [.data [0x09]])) = some [[0x00, 0x06]] := by decide +kernel
/-- V23: the same address as `GET_TVOC`. -/
theorem test_getEtoh :
    seen (step (offered [0x0A] [.data [0x2C, 0x01]])) = some [.issued (.busWriteRead 0x52 [0x22] 2),
      .answered (.data [0x2C, 0x01]), .responded (.ok (.u16 300))] := by decide +kernel
/-- V25, under property P3. -/
theorem test_getRawResistance :
    heard (step (offered [0x0B] [.data [0x10, 0x27]])) = some [[0x00, 0x19, 0x07, 0xEC, 0x41]] := by decide +kernel
/-- V26: a set error bit is data. -/
theorem test_getStatus : heard (step (offered [0x0C] [.data [0x40]])) = some [[0x00, 0, 0, 0, 1, 0]] := by decide +kernel
/-- V27. -/
theorem test_getGroupData :
    heard (step (offered [0x0D] [.data [1, 2, 3, 4, 5, 6, 7, 8]])) = some [[0x00, 1, 2, 3, 4, 5, 6, 7, 8]] := by
  decide +kernel
/-- V28: humidity is not clamped and not scaled. -/
theorem test_setTempRhComp :
    seen (step (offered [0x0E, 0x00, 0x00, 0xC8, 0x41, 0x2C, 0x01] [.wrote, .wrote])) =
      some [.issued (.busWrite 0x52 [0x13, 0x89, 0x4A]), .answered .wrote, .issued (.busWrite 0x52 [0x15, 0x2C, 0x01]),
        .answered .wrote, .responded (.ok .unit)] := by decide +kernel
/-- V29. -/
theorem test_getTempRhComp :
    heard (step (offered [0x0F] [.data [0x00, 0x4B], .data [0x00, 0x64]])) =
      some [[0x00, 0xD0, 0xCC, 0xD6, 0x41, 0x00, 0x64]] := by decide +kernel
/-- V30: the host compares, the block does not. -/
theorem test_configInterruptPin :
    heard (step (offered [0x10, 0x23] [.wrote, .data [0x03]])) = some [[0x00, 0x03]] := by decide +kernel
/-- V31: the two reads of 0x22 may differ. -/
theorem test_getMeasurements :
    heard (step (offered [0x12]
      [.data [0x90, 0x01], .data [0x2C, 0x01], .data [0x02], .data [0x2D, 0x01], .data [0x00, 0x08]])) =
      some [[0x00, 0x90, 0x01, 0x2C, 0x01, 0x02, 0x2D, 0x01, 0x00, 0x00, 0x00, 0x40]] := by decide +kernel
/-- V31: no partial result, no later read. -/
theorem test_getMeasurements_failFast :
    heard (step (offered [0x12] [.data [0x90, 0x01], .data [0x2C, 0x01], .err t0])) = some [[0x01, 0x01, 0xEE]] := by
  decide +kernel

/-! ## `INITIALIZE`, `RELEASE`, holds and reset (V12, V32 to V43) -/

/-- The answers of V32. -/
def answersV32 : List Answer :=
  [.wrote, .elapsed, .data [0x01], .data [0x86], .data [0x60, 0x01], .elapsed, .wrote, .wrote, .elapsed, .data [0x86],
    .wrote, .data [0, 0, 0, 0, 5, 4, 6, 0], .elapsed, .wrote, .elapsed, .data [0x02], .elapsed, .data [0x82],
    .data [0x02]]

/-- V32: the requests and the response. -/
theorem test_initialise_V32 :
    (seen (step (offered [0x11] answersV32))).map (List.filter isRequest) =
      some ((initRequests 0x52#7).map .issued) ∧
    heard (step (offered [0x11] answersV32)) = some [[0x00, 0x01]] ∧
    (after (step (offered [0x11] answersV32))).map (fun s => s.initState) = some .ready := by decide +kernel
/-- V33, V35: another chip, and a part-ID read that fails. -/
theorem test_initialise_V33_V35 :
    heard (step (offered [0x11] [.wrote, .elapsed, .data [0x01], .data [0x00], .data [0x99, 0x00]])) =
      some [[0x01, 0x02, 0x99, 0x00]] ∧
    heard (step (offered [0x11] [.wrote, .elapsed, .data [0x01], .data [0x00], .err t0])) = some [[0x00, 0x00]] := by
  decide +kernel
/-- V38. -/
theorem test_release :
    heard (step (offered [0x13] [])) = some [[0x00]] ∧
    (after (step (offered [0x13] []))).map (fun s => s.life) = some .released := by decide +kernel
/-- V12, V38: a released block. -/
theorem test_released :
    heard (step (offeredReleased [0x13])) = some [[0x02, 0x03]] ∧
    heard (step (offeredReleased [0x03, 0x03])) = some [[0x02, 0x03]] ∧
    heard (step (offeredReleased [0x20, 0x86])) = some [[0x00, 0x00, 0x01, 0x01, 0x00, 0x01]] ∧
    heard (step (offeredReleased [0xFF])) = some [[0x02, 0x01]] := by decide +kernel
/-- V41: an offer made while `INITIALIZE` waits is held. -/
theorem test_busyHold :
    (after (step { heldInit 5 with inputs := [.offer [0x0C]] })).map (fun s => (s.hostPort, s.busy, s.trace)) =
      some ([[0x0C]], true, []) := by decide +kernel
/-- V43: reset in mid-`INITIALIZE`. -/
theorem test_reset_midInitialise :
    (after (step { heldInit 8 with inputs := [.reset] })).map (fun s => (s.initState, s.life, s.busy, s.trace)) =
      some (.start, .active, false, []) := by decide +kernel
/-- V39: the other device address, taken at reset. -/
theorem test_secondary_address :
    (after (step { State.reset with strap := .secondary, inputs := [.reset] })).map (fun s => s.devAddr) =
      some 0x53#7 := by decide +kernel
/-- R92: read-back bytes have names, unnamed ones too. -/
theorem test_decodeOpmode : decodeOpmode 0xF0 = .reset ∧ decodeOpmode 0x7E = .unnamed 0x7E := by decide

/-! ## The hypotheses of the statements are met

One theorem for each statement that has hypotheses; a statement of several clauses has a witness for each clause.
`ready as` accepts and has the answers `as` to come; `released` is at rest after `RELEASE`. -/

/-- Answers to come, as inputs. -/
abbrev ins (as : List Answer) : List Input := as.map .answer

theorem ready_accepting (xs : List Input) : accepting (ready xs) := ⟨rfl, rfl⟩

theorem released_at_rest : released.run = .idle ∧ released.life = .released := ⟨rfl, rfl⟩

theorem witness_DecodeEncodeRoundTrip :
    (Instr.writeCommand (List.replicate 255 0)).wellFormed = true ∧ (Instr.setTempRhComp 0xFFFFFFFF 0xFFFF).wellFormed = true := by
  decide +kernel

theorem witness_DecodedBytesEncodeBack :
    decode [0x01, 0x00] = .instr (.writeCommand []) ∧ decode [0x25, 0xFF, 0xFF] = .instr (.decodeRawResistance 0xFFFF) := by
  decide

/-- Both ends of each gap of R99. -/
theorem witness_IllegalOpcodesRefused :
    (∀ op ∈ [0x00#8, 0x14, 0x1F, 0x26, 0x2F, 0x3B, 0xFF],
      op.toNat = 0 ∨ (0x14 ≤ op.toNat ∧ op.toNat ≤ 0x1F) ∨ (0x26 ≤ op.toNat ∧ op.toNat ≤ 0x2F) ∨ 0x3B ≤ op.toNat) ∧
    (offered [0xFF] []).run = .idle ∧ (offered [0xFF] []).hostPort = (0xFF :: []) :: [] := by decide

/-- A protocol code, active and released, a codec code, and the empty offer. -/
theorem witness_MalformedStringsRefused :
    decode [0x13, 0x00] = .reject (.overlong 0x13) ∧ decode [0x01] = .reject (.truncated 0x01) ∧
    decode [0x20] = .reject (.truncated 0x20) ∧ (offered [0x13, 0x00] []).run = .idle ∧
    (offered [0x13, 0x00] []).hostPort = [0x13, 0x00] :: [] ∧ (offeredReleased [0x01]).run = .idle ∧
    (offeredReleased [0x01]).life = .released ∧ (offered [] []).run = .idle ∧
    (offered [] []).hostPort = [] :: [] := by decide

theorem witness_StepRunsTheOfferedOperation :
    (offered [0x0C] []).run = .idle ∧ (offered [0x0C] []).hostPort = [0x0C] :: [] ∧ decode [0x0C] = .instr .getStatus := by
  decide

theorem witness_OfferedTableWordRunsNext : decodeTableWord 8 0x11 = some .initializeSensor := by decide +kernel

theorem witness_BusyBlockHoldsEveryOffer :
    held.busy = true ∧ ({ held with inputs := [.offer [0x0C], .offer []] } : State).busy = true ∧
    ({ held with inputs := [.offer [0x0C], .offer []] } : State).inputs = [[0x0C], []].map Input.offer := by decide

theorem witness_HeldBlockStaysHeld : held.busy = true ∧ held.inputs = [] := by decide

/-- `GET_STATUS` held while an offer and an answer on the other port come in; its own answer is still to come. -/
theorem witness_AnswersMayComeLater :
    held.busy = true ∧ step { held with inputs := [.offer [0x07], .answer .elapsed] } = .next (held.enqueue [0x07]) ∧
    (held.enqueue [0x07]).busy = true ∧
    (offered [0x0C] []).busy = false ∧
    (after (step { offered [0x0C] [] with inputs := [.offer [0x07], .answer .elapsed] })).map
      (fun s => (s.busy, s.hostPort)) = some (true, [[0x07]]) ∧
    (ready []).run = .idle ∧
    (after (exec .getStatus { ready [] with inputs := [.offer [0x07]] })).map State.busy = some true :=
  ⟨rfl, rfl, rfl, rfl, by decide +kernel, rfl, by decide +kernel⟩

/-- A running block with an offer waiting, and an idle one, each with the strap at either level. -/
theorem witness_ResetGivesTheResetValues :
    ({ held with inputs := [.reset], hostPort := [[0x07]] } : State).inputs = .reset :: [] ∧
    ({ held with inputs := [.reset], hostPort := [[0x07]] } : State).busy = true ∧ held.strap = .primary ∧
    (ready [.reset]).inputs = .reset :: [] ∧ (ready [.reset]).hostPort = [] ∧
    ({ ready [.reset] with strap := .secondary } : State).strap = .secondary := by decide

theorem witness_DecodeAqiByWholeByte : 6 ≤ (6 : Byte).toNat ∧ 6 ≤ (0xFF : Byte).toNat ∧ State.reset.run = .idle := by decide

/-- A codec operation is offered to an idle block, active or released: the hypothesis inside `AnsweredAtOnce`, so of the
statements `DecodeStatusUnpacksTheByte`, `DecodeAqiByWholeByte`, `DecodeU16LeAssembles`, `TempCompOperationsAnswer`,
`RawResistanceExactPowers`, `RawResistanceIsNearest`, `PolarityTogglesSetAndClearBit6`, `OtherBuilderOperationsAnswer`
and `ChainExpansionEndsInItsValue`. -/
theorem witness_AnsweredAtOnce : State.reset.run = .idle ∧ released.run = .idle := by decide

theorem witness_EncodeTempCompSaturates :
    unpack 0x7FC00000 = .nan ∧ unpack 0xFF800000 = .inf true ∧ unpack 0x7F800000 = .inf false ∧
    f32Value 0xC3889333 = some (-(8950579 / 32768)) ∧
    (∃ u, f32Value 0x443BB666 = some u ∧ u ≤ u) := by
  have h : unpack 0xC3889333 = .fin true 8950579 (-15) := by decide
  have h1 : unpack 0x443BB666 = .fin false 12301926 (-14) := by decide
  refine ⟨by decide, by decide, by decide, ?_, _, by simp only [f32Value, h1, valueOf]; rfl, le_refl _⟩
  simp only [f32Value, h, valueOf, signed, Option.some.injEq]
  norm_num

theorem witness_DecodeTempCompIsIncreasing : (0 : U16).toNat < (1 : U16).toNat ∧ (65534 : U16).toNat < (65535 : U16).toNat := by
  decide

theorem witness_TempCompRoundTrip :
    f32Value 0xC1A00000 = some (-20) ∧ f32Value 0x42700000 = some 60 ∧ (-20 : Rat) ≤ -20 ∧ (60 : Rat) ≤ 60 := by
  have h : unpack 0xC1A00000 = .fin true 10485760 (-19) := by decide
  have h1 : unpack 0x42700000 = .fin false 15728640 (-18) := by decide
  simp only [f32Value, h, h1, valueOf, signed, Option.some.injEq]
  norm_num

/-- A normal, a subnormal, a result that carries into the next binade, and the first overflow. -/
theorem witness_RoundingIsNearestEven :
    roundTo true 3 0 = .fin true (3 * 2 ^ 22) (-22) ∧ roundTo false 3 (-150) = .fin false 2 (-149) ∧
    roundTo false (2 ^ 25 - 1) 0 = .fin false (2 ^ 23) 2 ∧ roundTo false (2 ^ 25 - 1) 103 = .inf false := by
  decide +kernel

/-- 1 and 3; and 1 with itself and with -1 for the exact zeros. -/
theorem witness_Binary32OperationsRoundOnce :
    f32Value 0x3F800000 = some 1 ∧ f32Value 0x40400000 = some 3 ∧ f32Value 0xBF800000 = some (-1) ∧
    (3 : Rat) ≠ 0 ∧ (1 : Rat) + (-1) = 0 ∧ (1 : Rat) - 1 = 0 ∧
    (∃ s m t, fmul32 (unpack 0x3F800000) (unpack 0x40400000) = .fin s m t) ∧
    ∃ s m t, fdiv32 (unpack 0x3F800000) (unpack 0x40400000) = .fin s m t := by
  have h : unpack 0x3F800000 = .fin false 8388608 (-23) := by decide
  have h1 : unpack 0x40400000 = .fin false 12582912 (-22) := by decide
  have h2 : unpack 0xBF800000 = .fin true 8388608 (-23) := by decide
  refine ⟨?_, ?_, ?_, by norm_num, by norm_num, by norm_num, ⟨false, 12582912, -22, by decide +kernel⟩,
    ⟨false, 11184811, -25, by decide +kernel⟩⟩ <;>
    simp only [f32Value, h, h1, h2, valueOf, signed, Option.some.injEq] <;> norm_num

/-- Below 0, at 0, at 65535.5, at 65536. -/
theorem witness_TruncationSaturates :
    valueOf (.fin true 1 (-1)) = some (-1 / 2) ∧ valueOf (.fin false 0 0) = some 0 ∧
    valueOf (.fin false 131071 (-1)) = some (131071 / 2) ∧ ⌊(131071 / 2 : Rat)⌋ = 65535 ∧
    valueOf (.fin false 65536 0) = some 65536 ∧ ⌊(65536 : Rat)⌋ = 65536 ∧ (-1 / 2 : Rat) < 0 := by
  refine ⟨?_, ?_, ?_, by norm_num [Int.floor_eq_iff], ?_, by norm_num [Int.floor_eq_iff], by norm_num⟩ <;>
    simp only [valueOf, signed, Option.some.injEq] <;> norm_num

theorem witness_RawResistanceExactPowers : 0 ≤ 31 ∧ 31 ≤ 31 ∧ State.reset.run = .idle := by decide

theorem witness_ChainExpansionEndsInItsValue :
    (expandChain [.pushPull]).getLast? = some (.icfgPushPull 0x00) ∧ (expandChain []).getLast? = some .icfgBuilder ∧
    toggleMask .activeHigh ≠ toggleMask .openDrain := by decide

theorem witness_WriteCommandWritesTheCommandRegister :
    1 ≤ [0x0E#8].length ∧ [0x0E#8].length ≤ cmdMaxBytes ∧ (List.replicate cmdMaxBytes 0#8).length = cmdMaxBytes ∧
    accepting (ready (ins [.wrote])) ∧ (ready (ins [.wrote])).inputs = .answer .wrote :: [] ∧
    accepting (ready (ins [.err t0])) ∧ (ready (ins [.err t0])).inputs = .answer (.err t0) :: [] ∧
    ([] : List Byte).length = 0 ∧ cmdMaxBytes < (List.replicate (cmdMaxBytes + 1) 0#8).length ∧
    released.run = .idle ∧ released.life = .released := by
  refine ⟨by decide, ?_, ?_, ⟨rfl, rfl⟩, rfl, ⟨rfl, rfl⟩, rfl, rfl, ?_, rfl, rfl⟩ <;> simp [cmdMaxBytes]

/-- Whether a one-byte count can exceed `RD_MAX_BYTES` depends on that open parameter; 0 is always outside. -/
theorem witness_ReadRegisterForwardsAddressAndBytes :
    1 ≤ (1#8).toNat ∧ (8#8).toNat ≤ rdMaxBytes ∧ [1#8, 2, 3, 4, 5, 6, 7, 8].length = (8#8).toNat ∧
    accepting (ready (ins [.data [1, 2, 3, 4, 5, 6, 7, 8]])) ∧
    (ready (ins [.data [1, 2, 3, 4, 5, 6, 7, 8]])).inputs = .answer (.data [1, 2, 3, 4, 5, 6, 7, 8]) :: [] ∧
    accepting (ready (ins [.err t0])) ∧ (ready (ins [.err t0])).inputs = .answer (.err t0) :: [] ∧
    (0#8).toNat = 0 ∧ released.run = .idle ∧ released.life = .released := by
  refine ⟨by decide, ?_, rfl, ⟨rfl, rfl⟩, rfl, ⟨rfl, rfl⟩, rfl, rfl, rfl, rfl⟩
  simp [rdMaxBytes]

theorem witness_SetOperationModeWritesWaitsReadsBack :
    0xF0#8 ∈ [0x00#8, 0x01#8, 0x02#8, 0xF0#8] ∧ 0x03#8 ∉ [0x00#8, 0x01#8, 0x02#8, 0xF0#8] ∧
    (ready (ins [.wrote, .elapsed, .data [0x7E]])).inputs =
      .answer .wrote :: .answer .elapsed :: .answer (.data [0x7E]) :: [] ∧
    accepting (ready (ins [.wrote, .elapsed, .data [0x7E]])) ∧
    (ready (ins [.err t0])).inputs = .answer (.err t0) :: [] ∧ accepting (ready (ins [.err t0])) ∧
    (ready (ins [.wrote, .elapsed, .err t0])).inputs =
      .answer .wrote :: .answer .elapsed :: .answer (.err t0) :: [] ∧
    accepting (ready (ins [.wrote, .elapsed, .err t0])) ∧ accepting (ready []) ∧ released.run = .idle ∧
    released.life = .released :=
  ⟨by decide, by decide, rfl, ⟨rfl, rfl⟩, rfl, ⟨rfl, rfl⟩, rfl, ⟨rfl, rfl⟩, ⟨rfl, rfl⟩, rfl, rfl⟩

/-! The statements over `SingleRead`: a good answer of the right length, a transport error, a released block. -/

theorem witness_GetPartIdReadsLittleEndian :
    accepting (ready (ins [.data [0x60#8, 0x01#8]])) ∧ [0x60#8, 0x01#8].length = 2 ∧
    (ready (ins [.data [0x60#8, 0x01#8]])).inputs = .answer (.data [0x60#8, 0x01#8]) :: [] ∧ accepting (ready (ins [.err t0])) ∧
    (ready (ins [.err t0])).inputs = .answer (.err t0) :: [] ∧ released.run = .idle ∧ released.life = .released :=
  ⟨⟨rfl, rfl⟩, rfl, rfl, ⟨rfl, rfl⟩, rfl, rfl, rfl⟩

theorem witness_GetEco2TvocEtohReadTheirRegisters :
    accepting (ready (ins [.data [0x60#8, 0x01#8]])) ∧ [0x60#8, 0x01#8].length = 2 ∧
    (ready (ins [.data [0x60#8, 0x01#8]])).inputs = .answer (.data [0x60#8, 0x01#8]) :: [] ∧ accepting (ready (ins [.err t0])) ∧
    (ready (ins [.err t0])).inputs = .answer (.err t0) :: [] ∧ released.run = .idle ∧ released.life = .released :=
  ⟨⟨rfl, rfl⟩, rfl, rfl, ⟨rfl, rfl⟩, rfl, rfl, rfl⟩

theorem witness_GetRawResistanceDecodesItsWord :
    accepting (ready (ins [.data [0x60#8, 0x01#8]])) ∧ [0x60#8, 0x01#8].length = 2 ∧
    (ready (ins [.data [0x60#8, 0x01#8]])).inputs = .answer (.data [0x60#8, 0x01#8]) :: [] ∧ accepting (ready (ins [.err t0])) ∧
    (ready (ins [.err t0])).inputs = .answer (.err t0) :: [] ∧ released.run = .idle ∧ released.life = .released :=
  ⟨⟨rfl, rfl⟩, rfl, rfl, ⟨rfl, rfl⟩, rfl, rfl, rfl⟩

theorem witness_GetAirqualityIndexDecodesItsByte :
    accepting (ready (ins [.data [0xFF#8]])) ∧ [0xFF#8].length = 1 ∧
    (ready (ins [.data [0xFF#8]])).inputs = .answer (.data [0xFF#8]) :: [] ∧ accepting (ready (ins [.err t0])) ∧
    (ready (ins [.err t0])).inputs = .answer (.err t0) :: [] ∧ released.run = .idle ∧ released.life = .released :=
  ⟨⟨rfl, rfl⟩, rfl, rfl, ⟨rfl, rfl⟩, rfl, rfl, rfl⟩

theorem witness_GetStatusDecodesItsByte :
    accepting (ready (ins [.data [0xFF#8]])) ∧ [0xFF#8].length = 1 ∧
    (ready (ins [.data [0xFF#8]])).inputs = .answer (.data [0xFF#8]) :: [] ∧ accepting (ready (ins [.err t0])) ∧
    (ready (ins [.err t0])).inputs = .answer (.err t0) :: [] ∧ released.run = .idle ∧ released.life = .released :=
  ⟨⟨rfl, rfl⟩, rfl, rfl, ⟨rfl, rfl⟩, rfl, rfl, rfl⟩

theorem witness_GetGroupDataReturnsTheWindow :
    accepting (ready (ins [.data [1#8, 2, 3, 4, 5, 6, 7, 8]])) ∧ [1#8, 2, 3, 4, 5, 6, 7, 8].length = 8 ∧
    (ready (ins [.data [1#8, 2, 3, 4, 5, 6, 7, 8]])).inputs = .answer (.data [1#8, 2, 3, 4, 5, 6, 7, 8]) :: [] ∧ accepting (ready (ins [.err t0])) ∧
    (ready (ins [.err t0])).inputs = .answer (.err t0) :: [] ∧ released.run = .idle ∧ released.life = .released :=
  ⟨⟨rfl, rfl⟩, rfl, rfl, ⟨rfl, rfl⟩, rfl, rfl, rfl⟩

/-! The statements with one clause per transport error: the good run, an error on each bus request, a released block. -/

theorem witness_GetFirmwareVersionReadsBytes4To6 :
    accepting (ready (ins [.wrote, .data [0, 0, 0, 0, 5, 4, 6, 0]])) ∧
    (ready (ins [.wrote, .data [0, 0, 0, 0, 5, 4, 6, 0]])).inputs =
      .answer .wrote :: .answer (.data [0, 0, 0, 0, 5, 4, 6, 0]) :: [] ∧
    accepting (ready (ins [.err t0])) ∧
    (ready (ins [.err t0])).inputs =
      .answer (.err t0) :: [] ∧
    accepting (ready (ins [.wrote, .err t0])) ∧
    (ready (ins [.wrote, .err t0])).inputs =
      .answer .wrote :: .answer (.err t0) :: [] ∧
    released.run = .idle ∧ released.life = .released :=
  ⟨⟨rfl, rfl⟩, rfl, ⟨rfl, rfl⟩, rfl, ⟨rfl, rfl⟩, rfl, rfl, rfl⟩

theorem witness_ClearCommandWritesNopThenClear :
    accepting (ready (ins [.wrote, .wrote])) ∧
    (ready (ins [.wrote, .wrote])).inputs =
      .answer .wrote :: .answer .wrote :: [] ∧
    accepting (ready (ins [.err t0])) ∧
    (ready (ins [.err t0])).inputs =
      .answer (.err t0) :: [] ∧
    accepting (ready (ins [.wrote, .err t0])) ∧
    (ready (ins [.wrote, .err t0])).inputs =
      .answer .wrote :: .answer (.err t0) :: [] ∧
    released.run = .idle ∧ released.life = .released :=
  ⟨⟨rfl, rfl⟩, rfl, ⟨rfl, rfl⟩, rfl, ⟨rfl, rfl⟩, rfl, rfl, rfl⟩

theorem witness_SetTempRhCompWritesBothRegisters :
    accepting (ready (ins [.wrote, .wrote])) ∧
    (ready (ins [.wrote, .wrote])).inputs =
      .answer .wrote :: .answer .wrote :: [] ∧
    accepting (ready (ins [.err t0])) ∧
    (ready (ins [.err t0])).inputs =
      .answer (.err t0) :: [] ∧
    accepting (ready (ins [.wrote, .err t0])) ∧
    (ready (ins [.wrote, .err t0])).inputs =
      .answer .wrote :: .answer (.err t0) :: [] ∧
    released.run = .idle ∧ released.life = .released :=
  ⟨⟨rfl, rfl⟩, rfl, ⟨rfl, rfl⟩, rfl, ⟨rfl, rfl⟩, rfl, rfl, rfl⟩

theorem witness_GetTempRhCompReadsBothRegisters :
    accepting (ready (ins [.data [0x89, 0x4A], .data [0x32, 0x00]])) ∧
    (ready (ins [.data [0x89, 0x4A], .data [0x32, 0x00]])).inputs =
      .answer (.data [0x89, 0x4A]) :: .answer (.data [0x32, 0x00]) :: [] ∧
    accepting (ready (ins [.err t0])) ∧
    (ready (ins [.err t0])).inputs =
      .answer (.err t0) :: [] ∧
    accepting (ready (ins [.data [0x89, 0x4A], .err t0])) ∧
    (ready (ins [.data [0x89, 0x4A], .err t0])).inputs =
      .answer (.data [0x89, 0x4A]) :: .answer (.err t0) :: [] ∧
    released.run = .idle ∧ released.life = .released :=
  ⟨⟨rfl, rfl⟩, rfl, ⟨rfl, rfl⟩, rfl, ⟨rfl, rfl⟩, rfl, rfl, rfl⟩

theorem witness_ConfigInterruptPinWritesAndReadsBack :
    accepting (ready (ins [.wrote, .data [0x23]])) ∧
    (ready (ins [.wrote, .data [0x23]])).inputs =
      .answer .wrote :: .answer (.data [0x23]) :: [] ∧
    accepting (ready (ins [.err t0])) ∧
    (ready (ins [.err t0])).inputs =
      .answer (.err t0) :: [] ∧
    accepting (ready (ins [.wrote, .err t0])) ∧
    (ready (ins [.wrote, .err t0])).inputs =
      .answer .wrote :: .answer (.err t0) :: [] ∧
    released.run = .idle ∧ released.life = .released :=
  ⟨⟨rfl, rfl⟩, rfl, ⟨rfl, rfl⟩, rfl, ⟨rfl, rfl⟩, rfl, rfl, rfl⟩

theorem witness_GetMeasurementsReadsFiveRegisters :
    accepting (ready (ins [.data [0, 0], .data [1, 1], .data [2], .data [3, 3], .data [4, 4]])) ∧
    (ready (ins [.data [0, 0], .data [1, 1], .data [2], .data [3, 3], .data [4, 4]])).inputs =
      .answer (.data [0, 0]) :: .answer (.data [1, 1]) :: .answer (.data [2]) :: .answer (.data [3, 3]) :: .answer (.data [4, 4]) :: [] ∧
    accepting (ready (ins [.err t0])) ∧
    (ready (ins [.err t0])).inputs =
      .answer (.err t0) :: [] ∧
    accepting (ready (ins [.data [0, 0], .err t0])) ∧
    (ready (ins [.data [0, 0], .err t0])).inputs =
      .answer (.data [0, 0]) :: .answer (.err t0) :: [] ∧
    accepting (ready (ins [.data [0, 0], .data [1, 1], .err t0])) ∧
    (ready (ins [.data [0, 0], .data [1, 1], .err t0])).inputs =
      .answer (.data [0, 0]) :: .answer (.data [1, 1]) :: .answer (.err t0) :: [] ∧
    accepting (ready (ins [.data [0, 0], .data [1, 1], .data [2], .err t0])) ∧
    (ready (ins [.data [0, 0], .data [1, 1], .data [2], .err t0])).inputs =
      .answer (.data [0, 0]) :: .answer (.data [1, 1]) :: .answer (.data [2]) :: .answer (.err t0) :: [] ∧
    accepting (ready (ins [.data [0, 0], .data [1, 1], .data [2], .data [3, 3], .err t0])) ∧
    (ready (ins [.data [0, 0], .data [1, 1], .data [2], .data [3, 3], .err t0])).inputs =
      .answer (.data [0, 0]) :: .answer (.data [1, 1]) :: .answer (.data [2]) :: .answer (.data [3, 3]) :: .answer (.err t0) :: [] ∧
    released.run = .idle ∧ released.life = .released :=
  ⟨⟨rfl, rfl⟩, rfl, ⟨rfl, rfl⟩, rfl, ⟨rfl, rfl⟩, rfl, ⟨rfl, rfl⟩, rfl, ⟨rfl, rfl⟩, rfl, ⟨rfl, rfl⟩, rfl, rfl, rfl⟩

/-! `INITIALIZE`, `RELEASE` and the whole machine. -/

theorem witness_InitializeSucceeds :
    accepting (ready (ins answersV32)) ∧ [0#8, 0, 0, 0, 5, 4, 6, 0].length = 8 ∧
    (ready (ins answersV32)).inputs = initAnswersUpToPartId 0x01 0x86 [0x60, 0x01] ++
      initAnswersUpToStandard 0x86 [0, 0, 0, 0, 5, 4, 6, 0] 0x02 ++
      [.answer .elapsed, .answer (.data [0x82]), .answer (.data [0x02])] ++ [] := ⟨⟨rfl, rfl⟩, rfl, rfl⟩

theorem witness_InitializeRejectsAnotherChip :
    accepting (ready (initAnswersUpToPartId 0x01 0x00 [0x61, 0x01])) ∧ u16Of [0x61, 0x01] ≠ 0x0160 ∧
    u16Of [0x60, 0x00] ≠ 0x0160 ∧
    (ready (initAnswersUpToPartId 0x01 0x00 [0x61, 0x01])).inputs = initAnswersUpToPartId 0x01 0x00 [0x61, 0x01] ++ [] :=
  ⟨⟨rfl, rfl⟩, by decide, by decide, rfl⟩

theorem witness_InitializeUnreachableAnswersFalse :
    accepting (ready (ins [.wrote, .elapsed, .data [0x01], .data [0x00], .err t0])) ∧
    (ready (ins [.wrote, .elapsed, .data [0x01], .data [0x00], .err t0])).inputs =
      [.answer .wrote, .answer .elapsed, .answer (.data [0x01]), .answer (.data [0x00]), .answer (.err t0)] ++ [] :=
  ⟨⟨rfl, rfl⟩, rfl⟩

/-- The answers of V34. -/
def inputsV34 : List Input :=
  initAnswersUpToPartId 0x01 0x86 [0x60, 0x01] ++ initAnswersUpToStandard 0x86 [0, 0, 0, 0, 5, 4, 6, 0] 0x01

theorem witness_InitializeRejectsAnotherMode :
    accepting (ready inputsV34) ∧ [0#8, 0, 0, 0, 5, 4, 6, 0].length = 8 ∧ 0x01#8 ≠ 0x02 ∧
    (ready inputsV34).inputs = initAnswersUpToPartId 0x01 0x86 [0x60, 0x01] ++
      initAnswersUpToStandard 0x86 [0, 0, 0, 0, 5, 4, 6, 0] 0x01 ++ [] := ⟨⟨rfl, rfl⟩, rfl, by decide, rfl⟩

/-- The clause for `INITIALIZE`, at its first request and at its last. -/
theorem witness_TransportErrorsFailFast_initialise :
    (heldInit 0).run = .running .initializeSensor [] Partial.none ∧ (heldInit 0).seq ≠ 4 ∧
    (initRequests (heldInit 0).devAddr)[(heldInit 0).seq]? = some (.busWrite 0x52 [0x10, 0x01]) ∧
    (∀ n, Request.busWrite 0x52#7 [0x10, 0x01] ≠ .delayMs n) ∧
    (heldInit 0).pending = some (.busWrite 0x52 [0x10, 0x01]) ∧
    (heldInit 18).run = .running .initializeSensor [] Partial.none ∧ (heldInit 18).seq ≠ 4 ∧
    (initRequests (heldInit 18).devAddr)[(heldInit 18).seq]? = some (.busWriteRead 0x52 [0x10] 1) ∧
    (∀ n, Request.busWriteRead 0x52#7 [0x10] 1 ≠ .delayMs n) ∧
    (heldInit 18).pending = some (.busWriteRead 0x52 [0x10] 1) ∧
    ({ heldInit 18 with inputs := [.answer (.err t0)] } : State).inputs = .answer (.err t0) :: [] :=
  ⟨rfl, by decide, rfl, fun _ => by simp, rfl, rfl, by decide, rfl, fun _ => by simp, rfl, rfl⟩

/-- A read of `GET_TEMP_RH_COMP` that leads to the next, and its last read; a write of `INITIALIZE`. -/
def heldTempRh (k : Nat) : State :=
  { State.reset with
    run := .running .getTempRhComp [0xAA] Partial.none
    seq := k
    pending := some (.busWriteRead 0x52#7 [if k = 0 then 0x30 else 0x32] 2) }

theorem witness_OperationsFollowTheirRequests :
    (∀ i ∈ [Instr.readRegister 0x4E 2, .setOperationMode 0x01, .getRawResistance, .initializeSensor],
      i.isProtocol = true ∧ i ≠ .release) ∧
    operandOk (.setOperationMode 0x01) = true ∧ operandOk .getRawResistance = true ∧
    operandOk .initializeSensor = true ∧ accepting (ready []) ∧ (ready []).inputs = [] ∧
    (heldTempRh 0).run = .running .getTempRhComp [0xAA] Partial.none ∧
    Instr.getTempRhComp.isProtocol = true ∧ Instr.getTempRhComp ≠ .initializeSensor ∧ Instr.getTempRhComp ≠ .release ∧
    (heldTempRh 0).pending = some (.busWriteRead 0x52 [0x30] 2) ∧
    goodAnswer (.busWriteRead 0x52 [0x30] 2) (.data [0x89, 0x4A]) ∧
    ({ heldTempRh 0 with inputs := [.answer (.data [0x89, 0x4A])] } : State).inputs = [.answer (.data [0x89, 0x4A])] ∧
    (after (step { heldTempRh 0 with inputs := [.answer (.data [0x89, 0x4A])] })).map (fun s => (s.busy, s.scr)) =
      some (true, [0x89, 0x4A]) ∧
    (requestsOf 0x52 .getTempRhComp)[(heldTempRh 0).seq + 1]? = some (.busWriteRead 0x52 [0x32] 2) ∧
    (requestsOf 0x52 .getTempRhComp)[(heldTempRh 1).seq + 1]? = none ∧
    goodAnswer (.busWrite 0x52 [0x10, 0x01]) .wrote ∧
    (after (step { heldInit 0 with inputs := [.answer .wrote] })).map (fun s => (s.busy, s.scr)) = some (true, []) :=
  ⟨by decide, rfl, rfl, rfl, ⟨rfl, rfl⟩, rfl, rfl, by decide, by decide, by decide, rfl, ⟨_, rfl, rfl⟩, rfl,
    by decide +kernel, rfl, rfl, rfl, by decide +kernel⟩

theorem witness_InitializeFollowsItsTable :
    (ready []).inputs = [] ∧ (ready []).run = .idle ∧ (ready []).life = .active ∧
    (∀ k ∈ [0, 4, 15, 17], (heldInit k).initState = initStateAt (heldInit k).seq ∧
      (initRequests (heldInit k).devAddr)[(heldInit k).seq]? = (heldInit k).pending ∧
      (initRequests (heldInit k).devAddr)[(heldInit k).seq + 1]? ≠ none) ∧
    initGoodAnswer 0 (.busWrite 0x52 [0x10, 0x01]) .wrote ∧ initGoodAnswer 1 (.delayMs 50) .elapsed ∧
    initGoodAnswer 4 (.busWriteRead 0x52 [0x00] 2) (.data [0x60, 0x01]) ∧
    initGoodAnswer 15 (.busWriteRead 0x52 [0x10] 1) (.data [0x02]) ∧
    initGoodAnswer 17 (.busWriteRead 0x52 [0x20] 1) (.data [0xFF]) := by
  refine ⟨rfl, rfl, rfl, by decide, ⟨rfl, ?_, ?_⟩, ⟨rfl, ?_, ?_⟩, ⟨⟨_, rfl, rfl⟩, ?_, ?_⟩, ⟨⟨_, rfl, rfl⟩, ?_, ?_⟩,
    ⟨⟨_, rfl, rfl⟩, ?_, ?_⟩⟩ <;> decide

theorem witness_TransportErrorsFailFast :
    held.run = .running .getStatus [] Partial.none ∧ Instr.getStatus.isProtocol = true ∧
    Instr.getStatus ≠ .initializeSensor ∧ Instr.getStatus ≠ .release ∧
    held.pending = some (.busWriteRead 0x52 [0x20] 1) ∧ (∀ n, Request.busWriteRead 0x52#7 [0x20] 1 ≠ .delayMs n) ∧
    ({ held with inputs := [.answer (.err t0)] } : State).inputs = .answer (.err t0) :: [] :=
  ⟨rfl, by decide, by decide, by decide, rfl, fun _ => by simp, rfl⟩

theorem witness_ReleaseGivesUpThePorts :
    accepting (ready []) ∧ released.run = .idle ∧ released.life = .released := ⟨⟨rfl, rfl⟩, rfl, rfl⟩

/-- Also with an operand outside its domain. -/
theorem witness_ReleasedBlockRefusesProtocol :
    (Instr.setOperationMode 0x03).isProtocol = true ∧ Instr.release.isProtocol = true ∧ released.run = .idle ∧
    released.life = .released := by decide

/-- Four steps of a released block: it takes an offer, refuses it, takes another, answers it. -/
theorem witness_ReleasedBlockIssuesNoRequest :
    ({ released with inputs := [.offer [0x0C], .offer [0x21, 0x02]] } : State).life = .released ∧
    Input.reset ∉ ({ released with inputs := [.offer [0x0C], .offer [0x21, 0x02]] } : State).inputs ∧
    (after (runSteps 4 { released with inputs := [.offer [0x0C], .offer [0x21, 0x02]] })).map
      (fun s => hostReceives s.trace) = some [[0x02, 0x03], [0x00, 0x02]] := by decide +kernel

theorem witness_LastingStateHasFewWriters :
    Input.reset ∉ (ready (ins answersV32)).inputs ∧ (ready (ins answersV32)).run = .idle ∧
    (after (exec .initializeSensor (ready (ins answersV32)))).isSome = true ∧
    (after (exec .release (ready []))).isSome = true ∧ Input.reset ∉ (heldInit 9).inputs ∧
    (heldInit 9).run = .running .initializeSensor [] Partial.none ∧ (after (step (heldInit 9))).isSome = true ∧
    held.run = .running .getStatus [] Partial.none ∧ (after (step held)).isSome = true ∧
    (ready [.offer [0x0C]]).run = .idle ∧ (ready [.offer [0x0C]]).hostPort = [] ∧
    (ready [.offer [0x0C]]).inputs = .offer [0x0C] :: [] ∧ (ready [.answer .wrote]).inputs = .answer .wrote :: [] ∧
    (ready []).inputs = [] ∧
    (after (step (offered [0x13] []))).map (fun s => decide (s.life ≠ (offered [0x13] []).life)) = some true ∧
    (after (step (offered [0x11] answersV32))).map (fun s => decide (s.initState ≠ (offered [0x11] []).initState)) =
      some true := by decide +kernel

/-- An idle block, a running one and a running `INITIALIZE` meet the invariant, and their steps go on. -/
theorem witness_StepKeepsInvariant :
    Inv (offered [0x0C] [.data [0x82]]) ∧ (after (step (offered [0x0C] [.data [0x82]]))).isSome = true ∧ Inv held ∧
    (after (step held)).isSome = true ∧ Inv (heldInit 11) ∧ (after (step (heldInit 11))).isSome = true := by
  refine ⟨⟨.inl rfl, rfl, rfl⟩, by decide +kernel, ⟨.inl rfl, rfl, rfl, ⟨_, rfl, rfl⟩, rfl⟩, by decide +kernel,
    ⟨.inl rfl, rfl, rfl, ⟨_, rfl, rfl⟩, rfl⟩, by decide +kernel⟩

/-- Operations that end and that are held, offered and going on. -/
theorem witness_ExactlyOneResponsePerOperation :
    (ready (ins [.data [0x82]])).run = .idle ∧ Input.reset ∉ (ready (ins [.data [0x82]])).inputs ∧
    (after (exec .getStatus (ready (ins [.data [0x82]])))).map (fun s => s.busy) = some false ∧
    (after (exec .getStatus (ready []))).map (fun s => s.busy) = some true ∧
    held.busy = true ∧ Input.reset ∉ held.inputs ∧ (after (step held)).map (fun s => s.busy) = some true ∧
    (after (step { held with inputs := ins [.data [0x82]] })).map (fun s => s.busy) = some false := by decide +kernel

theorem witness_EveryRequestIsProper :
    Input.reset ∉ (offered [0x11] answersV32).inputs ∧ (after (step (offered [0x11] answersV32))).isSome = true := by
  decide +kernel

/-- A step that stops: a read answered with a byte too few; and answers on a port without a request. -/
theorem witness_StepsStopOnlyOnABrokenTransport :
    step (offered [0x04] [.data [0x60]]) = .fault .transportContract ∧ held.busy = true ∧
    ({ held with inputs := [.answer (.data [])] } : State).inputs = .answer (.data []) :: [] ∧
    misfits held.pending (.data []) ∧ unasked held.pending .elapsed ∧ unasked (heldInit 1).pending (.err t0) :=
  ⟨rfl, rfl, rfl, .inr ⟨_, _, _, rfl, .inr ⟨_, rfl, by decide⟩⟩, rfl, show Answer.err t0 ≠ .elapsed by decide⟩

/-- `95_test_vectors.md` has no late answer; after a reset one of another shape stops the model (log entry 24). -/
theorem test_late_answer_after_reset :
    step { held with pending := some (.busWrite 0x52 [0x12, 0x00]), inputs := ins [.data [0x82]] } =
      .fault .transportContract := rfl

end Sys2Proof.Tests
end

/-! PROOFS. The statements of `00_scope.md`: one response per operation, the binary32 arithmetic, and the conversion
to `u16`. -/

namespace Sys2Proof.Machine

open Sys2Proof.Safety

/-! ## Responses: what a turn of the engine adds to the trace (`41_bus_primitives.md` R160, R161) -/

/-- The trace of `s'` extends the trace of `s` by events that are no responses. -/
def ExtendsSilently (s s' : State) : Prop :=
  ∃ es : List Event, s'.trace = s.trace ++ es ∧ ∀ e ∈ es, isResponse e = false

/-- Nothing new is a silent extension. -/
theorem ExtendsSilently.of_trace_eq {s s' : State} (h : s'.trace = s.trace) : ExtendsSilently s s' :=
  ⟨[], by simp [h], by simp⟩

/-- One event that is no response is a silent extension. -/
theorem ExtendsSilently.of_append {s s' : State} {e : Event} (h : s'.trace = s.trace ++ [e])
    (he : isResponse e = false) : ExtendsSilently s s' :=
  ⟨[e], h, by simp [he]⟩

/-- Silent extensions compose. -/
theorem ExtendsSilently.trans {s s1 s2 : State} (h1 : ExtendsSilently s s1) (h2 : ExtendsSilently s1 s2) :
    ExtendsSilently s s2 := by
  obtain ⟨es1, ht1, hs1⟩ := h1
  obtain ⟨es2, ht2, hs2⟩ := h2
  refine ⟨es1 ++ es2, by rw [ht2, ht1, List.append_assoc], fun e he => ?_⟩
  exact (List.mem_append.mp he).elim (hs1 e) (hs2 e)

/-- Silent events before the rest of a step do not count as responses. -/
theorem ExtendsSilently.respondsOnceOrHolds {s s1 s2 : State} (h1 : ExtendsSilently s s1)
    (h2 : respondsOnceOrHolds s1 s2) : respondsOnceOrHolds s s2 := by
  obtain ⟨es1, ht1, hs1⟩ := h1
  obtain ⟨es2, ht2, hend⟩ := h2
  refine ⟨es1 ++ es2, by rw [ht2, ht1, List.append_assoc], ?_⟩
  rcases hend with ⟨hidle, es', r, rfl, hs2⟩ | ⟨hbusy, hs2⟩
  · refine .inl ⟨hidle, es1 ++ es', r, (List.append_assoc ..).symm, fun e he => ?_⟩
    exact (List.mem_append.mp he).elim (hs1 e) (hs2 e)
  · exact .inr ⟨hbusy, fun e he => (List.mem_append.mp he).elim (hs1 e) (hs2 e)⟩

/-- A busy block that has sent nothing but requests is held. -/
theorem respondsOnceOrHolds_of_busy {s s' : State} (hb : s'.busy = true) (h : ExtendsSilently s s') :
    respondsOnceOrHolds s s' := by
  obtain ⟨es, ht, hs⟩ := h
  exact ⟨es, ht, .inr ⟨hb, hs⟩⟩

/-- A block that is idle after one response has answered once. -/
theorem respondsOnceOrHolds_of_response {s s' : State} {r : Response} (hr : s'.run = .idle)
    (ht : s'.trace = s.trace ++ [.responded r]) : respondsOnceOrHolds s s' :=
  ⟨[.responded r], ht, .inl ⟨hr, [], r, rfl, by simp⟩⟩

/-- Loading `SCR` keeps `BUSY`. -/
@[simp] theorem State.loadScr_busy (s : State) (read : Option (List Byte)) : (s.loadScr read).busy = s.busy := by
  unfold State.loadScr; split <;> simp_all [State.busy]

/-- Keeping a result keeps `BUSY`. -/
@[simp] theorem State.keep_busy (s : State) (f : Partial → Partial) : (s.keep f).busy = s.busy := by
  unfold State.keep; split <;> simp_all [State.busy]

/-- The checks after an answer either let the operation go on, with nothing new on the ports, or end it with one
response. -/
def Progress.GoesOnOrResponds (s : State) : Progress → Prop
  | .next s' => s'.busy = s.busy ∧ s'.trace = s.trace
  | .done s' => s'.run = .idle ∧ ∃ r, s'.trace = s.trace ++ [.responded r]

/-- A micro-sequence that sends a response exactly when it ends. -/
structure MicroOp.RespondsAtEnd (m : MicroOp) : Prop where
  onAccept : ∀ s : State, (m.onAccept s).busy = s.busy ∧ (m.onAccept s).trace = s.trace
  after : ∀ (k : Nat) (s : State), (m.after k s).GoesOnOrResponds s
  onErr : ∀ (k : Nat) (t : BusErr) (s : State), (m.onErr k t s).GoesOnOrResponds s

/-- Fail fast ends with one response (`41_bus_primitives.md` R166). -/
theorem failFast_goesOnOrResponds (k : Nat) (t : BusErr) (s : State) : (failFast k t s).GoesOnOrResponds s :=
  ⟨rfl, _, rfl⟩

/-- A micro-sequence without checks responds when it ends, if keeping what was read touches neither `BUSY` nor the
trace. -/
theorem straightLine_respondsAtEnd (table : List MicroReq) (between : Nat → State → State) (result : State → Value)
    (hb : ∀ k s, (between k s).busy = s.busy ∧ (between k s).trace = s.trace) :
    (straightLine table between result).RespondsAtEnd where
  onAccept _ := ⟨rfl, rfl⟩
  after k s := by
    by_cases hk : k + 1 < table.length
    · simpa [straightLine, hk, Progress.GoesOnOrResponds] using hb k s
    · simp [straightLine, hk, Progress.GoesOnOrResponds]
  onErr := failFast_goesOnOrResponds

/-- The checks of `INITIALIZE` after a good answer (`43_initialize.md` R231). -/
theorem initAfter_goesOnOrResponds (checkIdle : Bool) (k : Nat) (s : State) :
    (initAfter checkIdle k s).GoesOnOrResponds s := by
  unfold initAfter
  split
  · unfold afterIdleReadback; split <;> simp [Progress.GoesOnOrResponds, State.busy]
  · unfold afterPartId; split <;> simp [Progress.GoesOnOrResponds, State.busy]
  · exact ⟨rfl, rfl⟩
  · exact ⟨rfl, rfl⟩
  · unfold afterStandardReadback; split <;> simp [Progress.GoesOnOrResponds, State.busy]
  · exact ⟨rfl, _, rfl⟩
  · exact ⟨rfl, rfl⟩

/-- A transport error ends `INITIALIZE`, with `Ok(false)` or `BusError` (`43_initialize.md` R230, R236 (a)). -/
theorem initOnErr_goesOnOrResponds (k : Nat) (t : BusErr) (s : State) : (initOnErr k t s).GoesOnOrResponds s := by
  unfold initOnErr; split <;> exact ⟨rfl, _, rfl⟩

/-- `INITIALIZE` responds when it ends. -/
theorem microInitialize_respondsAtEnd (checkIdle : Bool) : (microInitialize checkIdle).RespondsAtEnd where
  onAccept _ := ⟨rfl, rfl⟩
  after := initAfter_goesOnOrResponds checkIdle
  onErr := initOnErr_goesOnOrResponds

/-- `RELEASE` ends at once, with its response (`43_initialize.md` R245). -/
theorem microRelease_respondsAtEnd : microRelease.RespondsAtEnd where
  onAccept _ := ⟨rfl, rfl⟩
  after _ _ := ⟨rfl, _, rfl⟩
  onErr := failFast_goesOnOrResponds

/-- The micro-sequence of an operation without requests never ends by itself. -/
theorem microNone_respondsAtEnd : microNone.RespondsAtEnd where
  onAccept _ := ⟨rfl, rfl⟩
  after _ _ := ⟨rfl, rfl⟩
  onErr := failFast_goesOnOrResponds

/-- `GET_TEMP_RH_COMP` keeps a temperature between its reads and responds at the end. -/
theorem microGetTempRhComp_respondsAtEnd : microGetTempRhComp.RespondsAtEnd :=
  straightLine_respondsAtEnd _ _ _ fun _ s => by simp [keepCelsius]

/-- `GET_MEASUREMENTS` keeps four results between its reads and responds at the end. -/
theorem microGetMeasurements_respondsAtEnd : microGetMeasurements.RespondsAtEnd :=
  straightLine_respondsAtEnd _ _ _ fun k s => by unfold keepMeasurement; split <;> simp

/-- Every operation's micro-sequence sends a response exactly when it ends: `INITIALIZE` and `RELEASE` by their own
checks, the other protocol operations as straight lines, of which two keep what they read. -/
theorem microOf_respondsAtEnd (i : Instr) : (microOf i).RespondsAtEnd := by
  cases i with
  | initializeSensor => exact microInitialize_respondsAtEnd _
  | release => exact microRelease_respondsAtEnd
  | getTempRhComp => exact microGetTempRhComp_respondsAtEnd
  | getMeasurements => exact microGetMeasurements_respondsAtEnd
  | writeCommand | readRegister | setOperationMode | getPartId | getFirmwareVersion | clearCommand | getEco2 | getTvoc
  | getAirqualityIndex | getEtoh | getRawResistance | getStatus | getGroupData | setTempRhComp | configInterruptPin =>
    exact straightLine_respondsAtEnd _ _ _ fun _ _ => ⟨rfl, rfl⟩
  | _ => exact microNone_respondsAtEnd

/-- Issuing a request keeps `BUSY` and sends no response. -/
theorem issueAt_silent (m : MicroOp) (k : Nat) (s : State) :
    (issueAt m k s).busy = s.busy ∧ ExtendsSilently s (issueAt m k s) := by
  unfold issueAt
  split
  · exact ⟨rfl, .of_append rfl rfl⟩
  · exact ⟨rfl, .of_trace_eq rfl⟩

/-- What the checks answer becomes a turn: going on is silent and keeps `BUSY`, ending sends one response. -/
theorem proceed_respondsAtEnd (m : MicroOp) (k : Nat) (s : State) (p : Progress) (hp : p.GoesOnOrResponds s) :
    (∀ s', proceed m k p = .goesOn s' → s'.busy = s.busy ∧ ExtendsSilently s s') ∧
    (∀ s', proceed m k p = .ended s' → respondsOnceOrHolds s s') := by
  cases p with
  | next s1 =>
    obtain ⟨hbusy, htrace⟩ := hp
    obtain ⟨hbusy', hsilent⟩ := issueAt_silent m (k + 1) s1
    refine ⟨fun s' h => ?_, by simp⟩
    simp only [proceed_next, Turn.goesOn.injEq] at h
    exact h ▸ ⟨hbusy'.trans hbusy, (ExtendsSilently.of_trace_eq htrace).trans hsilent⟩
  | done s1 =>
    obtain ⟨hidle, r, htrace⟩ := hp
    refine ⟨by simp, fun s' h => ?_⟩
    simp only [proceed_done, Turn.ended.injEq] at h
    exact h ▸ respondsOnceOrHolds_of_response hidle htrace

/-- A turn after which the operation goes on is silent and keeps `BUSY`; one that ends it sends one response. -/
theorem takeTurn_respondsAtEnd (m : MicroOp) (hm : m.RespondsAtEnd) (a : Answer) (s : State) :
    (∀ s', takeTurn m a s = .goesOn s' → s'.busy = s.busy ∧ ExtendsSilently s s') ∧
    (∀ s', takeTurn m a s = .ended s' → respondsOnceOrHolds s s') := by
  have hfrom : ∀ (s1 : State) (p : Progress), s1.busy = s.busy → s1.trace = s.trace ++ [.answered a] →
      p.GoesOnOrResponds s1 →
      (∀ s', proceed m s.seq p = .goesOn s' → s'.busy = s.busy ∧ ExtendsSilently s s') ∧
      (∀ s', proceed m s.seq p = .ended s' → respondsOnceOrHolds s s') := by
    intro s1 p hbusy htrace hp
    have hsilent : ExtendsSilently s s1 := .of_append htrace rfl
    obtain ⟨hgo, hend⟩ := proceed_respondsAtEnd m s.seq s1 p hp
    exact ⟨fun s' h => ⟨(hgo s' h).1.trans hbusy, hsilent.trans (hgo s' h).2⟩,
      fun s' h => hsilent.respondsOnceOrHolds (hend s' h)⟩
  rcases takeTurn_cases m a s with ⟨read, -, h⟩ | ⟨t, -, h⟩ | ⟨-, h⟩ | ⟨-, h⟩ <;> rw [h]
  · exact hfrom _ _ (by rw [State.loadScr_busy]; rfl) (by simp) (hm.after _ _)
  · exact hfrom (s.takeAnswer a) _ rfl rfl (hm.onErr _ _ _)
  · refine ⟨fun s' hs => ?_, by simp⟩
    exact Turn.goesOn.inj hs ▸ ⟨rfl, .of_trace_eq rfl⟩
  · simp

/-- A driven operation ends with one response, its last event, or is held with none. -/
theorem drive_respondsOnceOrHolds (m : MicroOp) (hm : m.RespondsAtEnd) (xs : List Input) (s s' : State)
    (hb : s.busy = true) (hx : Input.reset ∉ xs) (h : drive m xs s = .next s') : respondsOnceOrHolds s s' := by
  induction xs generalizing s with
  | nil =>
    simp only [drive_nil, Host.Outcome.next.injEq] at h
    exact h ▸ respondsOnceOrHolds_of_busy hb (.of_trace_eq rfl)
  | cons x rest ih =>
    have hrest : Input.reset ∉ rest := fun hmem => hx (List.mem_cons_of_mem _ hmem)
    cases x with
    | offer o => exact ih (s.enqueue o) hb hrest h
    | reset => exact absurd List.mem_cons_self hx
    | answer a =>
      obtain ⟨hgo, hend⟩ := takeTurn_respondsAtEnd m hm a s
      cases ht : takeTurn m a s with
      | goesOn s1 =>
        obtain ⟨hbusy, hsilent⟩ := hgo s1 ht
        exact hsilent.respondsOnceOrHolds
          (ih s1 (hbusy.trans hb) hrest (by rwa [drive_goesOn m a rest s s1 ht] at h))
      | ended s1 =>
        rw [drive_ended m a rest s s1 ht, Host.Outcome.next.injEq] at h
        exact h ▸ hend s1 ht
      | broken => simp [drive_broken m a rest s ht] at h

/-- A launched operation ends with one response or is held with none; one with an empty table must end at once. -/
theorem launch_respondsOnceOrHolds (m : MicroOp) (hm : m.RespondsAtEnd) (s s' : State) (hb : s.busy = true)
    (hx : Input.reset ∉ s.inputs) (h : launch m s = .next s') : respondsOnceOrHolds s s' := by
  cases hq : m.table with
  | nil =>
    have hafter := hm.after 0 s
    simp only [launch, hq] at h
    cases hp : m.after 0 s with
    | next s1 =>
      simp only [hp, Host.Outcome.next.injEq, Progress.GoesOnOrResponds] at h hafter
      obtain ⟨hbusy, htrace⟩ := hafter
      exact h ▸ respondsOnceOrHolds_of_busy (hbusy.trans hb) (.of_trace_eq htrace)
    | done s1 =>
      simp only [hp, Host.Outcome.next.injEq, Progress.GoesOnOrResponds] at h hafter
      obtain ⟨hidle, r, htrace⟩ := hafter
      exact h ▸ respondsOnceOrHolds_of_response hidle htrace
  | cons q qs =>
    obtain ⟨hbusy, hsilent⟩ := issueAt_silent m 0 s
    rw [launch_table m q qs s hq] at h
    exact hsilent.respondsOnceOrHolds (drive_respondsOnceOrHolds m hm _ _ s' (hbusy.trans hb) hx h)

/-- A protocol operation offered to an idle block is refused at once, or accepted and launched. -/
theorem protocolOp_respondsOnceOrHolds (i : Instr) (m : MicroOp) (hm : m.RespondsAtEnd)
    (hin : ∀ s, (m.onAccept s).inputs = s.inputs) (s s' : State) (hr : s.run = .idle)
    (hx : Input.reset ∉ s.inputs) (h : protocolOp i m s = .next s') : respondsOnceOrHolds s s' := by
  have hrefuse : ∀ r, Host.Outcome.next (s.refuse r) = (.next s' : StepOutcome) → respondsOnceOrHolds s s' :=
    fun r hn => Host.Outcome.next.inj hn ▸ respondsOnceOrHolds_of_response hr rfl
  cases hl : s.life with
  | released => exact hrefuse _ (protocolOp_released i m s hr hl ▸ h)
  | active =>
    cases ho : operandOk i with
    | false => exact hrefuse _ (protocolOp_badOperand i m s hr hl ho ▸ h)
    | true =>
      obtain ⟨hbusy, htrace⟩ := hm.onAccept (s.accept i)
      have hlaunch := launch_respondsOnceOrHolds m hm (m.onAccept (s.accept i)) s' hbusy
        (by rwa [hin]) (protocolOp_accepted i m s hr hl ho ▸ h)
      exact (ExtendsSilently.of_trace_eq htrace).respondsOnceOrHolds hlaunch

/-- Acceptance takes no input. -/
theorem microOf_onAccept_inputs (i : Instr) (s : State) : ((microOf i).onAccept s).inputs = s.inputs := by
  cases i <;> rfl

/-- A codec operation offered to an idle block is answered at once. -/
theorem codecOp_respondsOnceOrHolds (i : Instr) (v : Value) (s s' : State) (hr : s.run = .idle)
    (h : codecOp i v s = .next s') : respondsOnceOrHolds s s' := by
  rw [codecOp_idle i v s hr, Host.Outcome.next.injEq] at h
  exact h ▸ respondsOnceOrHolds_of_response hr rfl

/-- Settles O58: an operation offered to an idle block is refused, answered or driven; a held one is driven on; the
engine sends a response exactly when it ends. -/
theorem exactlyOneResponsePerOperation : Obligations.ExactlyOneResponsePerOperation := by
  refine ⟨fun i s s' hr hx h => ?_, fun s s' hb hx h => ?_⟩
  · rcases exec_cases i s with ⟨-, he⟩ | ⟨-, v, he⟩
    · exact protocolOp_respondsOnceOrHolds i _ (microOf_respondsAtEnd i) (microOf_onAccept_inputs i) s s' hr hx
        (he ▸ h)
    · exact codecOp_respondsOnceOrHolds i v s s' hr (he ▸ h)
  · obtain ⟨op, scr, acc, hrun⟩ := (State.busy_eq_true s).1 hb
    exact drive_respondsOnceOrHolds _ (microOf_respondsAtEnd op) s.inputs s s' hb hx
      (step_running s op scr acc hrun ▸ h)

end Sys2Proof.Machine

namespace Sys2Proof.Machine

/-! ## Signs of finite values -/

/-- The factor of a sign. -/
def signFactor (neg : Bool) : Rat := if neg then -1 else 1

/-- A signed significand as a rational number. -/
theorem signed_cast (neg : Bool) (m : Nat) : (signed neg m : Rat) = signFactor neg * m := by
  cases neg <;> simp [signed, signFactor]

/-- The exclusive or of two signs is the sign of a product. -/
theorem signFactor_xor (s t : Bool) : signFactor (s ^^ t) = signFactor s * signFactor t := by
  cases s <;> cases t <;> simp [signFactor]

/-- A sign does not change the magnitude. -/
theorem abs_signFactor_mul (neg : Bool) (a : Rat) : |signFactor neg * a| = |a| := by
  cases neg <;> simp [signFactor]

/-- The sign of a number other than zero is the sign of its factor. -/
theorem eq_decide_signFactor_mul_neg (neg : Bool) (a : Rat) (ha : 0 ≤ a) (h : signFactor neg * a ≠ 0) :
    neg = decide (signFactor neg * a < 0) := by
  have hpos : 0 < a := lt_of_le_of_ne ha fun h0 => h (by simp [← h0])
  cases neg
  · simpa [signFactor] using ha
  · simpa [signFactor] using hpos

/-- An integer is its sign times its magnitude. -/
theorem signFactor_mul_natAbs (i : Int) : signFactor (decide (i < 0)) * (i.natAbs : Rat) = i := by
  by_cases h : i < 0
  · rw [Nat.cast_natAbs, abs_of_neg h]; simp [signFactor, h]
  · rw [Nat.cast_natAbs, abs_of_nonneg (not_lt.1 h)]; simp [signFactor, h]

end Sys2Proof.Machine

namespace Sys2Proof.Machine

open Sys2Proof.Safety

/-! ## Truncation to `u16` (`00_scope.md` R17) -/

/-- `truncMag` discards the fraction. -/
theorem floor_eq_truncMag (m : Nat) (e : Int) : ⌊(m : Rat) * 2 ^ e⌋ = (truncMag m e : Int) := by
  unfold truncMag
  split
  · rename_i he
    obtain ⟨k, rfl⟩ := Int.eq_ofNat_of_zero_le he
    rw [zpow_natCast, Int.toNat_natCast]
    exact_mod_cast Int.floor_natCast (R := Rat) (m * 2 ^ k)
  · rename_i he
    obtain ⟨k, hk⟩ := Int.eq_ofNat_of_zero_le (show 0 ≤ -e by omega)
    obtain rfl : e = -(k : Int) := by omega
    rw [neg_neg, Int.toNat_natCast, zpow_neg, zpow_natCast, ← div_eq_mul_inv]
    exact_mod_cast Rat.floor_natCast_div_natCast m (2 ^ k)

/-- A finite value that is not below 0 is truncated, and saturates at 65535. -/
theorem truncSat_fin_nonneg (m : Nat) (e : Int) :
    ((f32ToU16TruncSat (.fin false m e)).toNat : Int) = min 65535 (truncMag m e : Int) := by
  simp only [f32ToU16TruncSat, Bool.false_eq_true, if_false]
  split
  · simp; omega
  · simp only [BitVec.toNat_ofNat]; omega

/-- A negative pattern gives 0. -/
@[simp] theorem truncSat_fin_neg (m : Nat) (e : Int) : f32ToU16TruncSat (.fin true m e) = 0 := rfl

/-- Settles O23: the floor of the value is `truncMag`, and only a magnitude of zero is at once negative in sign and not
below 0. -/
theorem truncationSaturates : Obligations.TruncationSaturates := by
  refine ⟨rfl, rfl, rfl, fun x v hv => ?_⟩
  cases x with
  | nan => cases hv
  | inf s => cases hv
  | fin neg m e =>
    have hmag : (0 : Rat) ≤ m * 2 ^ e := by positivity
    simp only [valueOf, signed_cast, Option.some.injEq] at hv
    cases neg with
    | true =>
      have hv0 : v ≤ 0 := by simp [signFactor] at hv; linarith
      refine ⟨fun _ => rfl, fun h0 _ => ?_, fun h => ?_⟩
      · simp [le_antisymm hv0 h0]
      · have := Int.floor_le_floor hv0
        simp at this; omega
    | false =>
      obtain rfl : (m : Rat) * 2 ^ e = v := by simpa [signFactor] using hv
      have hval := truncSat_fin_nonneg m e
      rw [floor_eq_truncMag]
      refine ⟨fun h => absurd hmag (not_le.2 h), fun _ h => by omega, fun h => ?_⟩
      exact BitVec.eq_of_toNat_eq (by simp; omega)

end Sys2Proof.Machine

namespace Sys2Proof.Machine

open Sys2Proof.Safety

/-! ## The one rounding (`00_scope.md` R15) -/

/-- The magnitude `w`, counted in units in the last place, is rounded to the integer `m`: to nearest, ties to even. -/
def RoundsTo (w : Rat) (m : Nat) : Prop :=
  |w - m| ≤ 1 / 2 ∧ (|w - m| = 1 / 2 → m % 2 = 0)

/-- A magnitude is rounded if it lies strictly within half a unit. -/
theorem RoundsTo.of_lt {w : Rat} {m : Nat} (h : |w - m| < 1 / 2) : RoundsTo w m :=
  ⟨h.le, fun heq => absurd heq h.ne⟩

/-- The distance of the two values is that of their magnitudes, in units in the last place. -/
theorem abs_sub_signed (neg : Bool) (w : Rat) (m : Nat) (t : Int) :
    |signFactor neg * (w * 2 ^ t) - (signed neg m : Rat) * 2 ^ t| = |w - m| * 2 ^ t := by
  have hu : (0 : Rat) < 2 ^ t := by positivity
  rw [signed_cast, show signFactor neg * (w * 2 ^ t) - signFactor neg * m * 2 ^ t =
    signFactor neg * ((w - m) * 2 ^ t) by ring, abs_signFactor_mul, abs_mul, abs_of_pos hu]

/-- A finite value is the magnitude `w` units rounded once, if its significand is `w` rounded and in normal form. -/
theorem nearestEven_fin (neg : Bool) (w : Rat) (m : Nat) (t : Int) (hw : 0 ≤ w) (hm : m < 2 ^ 24)
    (ht : -149 ≤ t ∧ t ≤ 104) (hnormal : 2 ^ 23 ≤ m ∨ t = -149) (hround : RoundsTo w m)
    (hbelow : m = 2 ^ 23 → -149 < t → w < 2 ^ 23 → |w - m| ≤ 1 / 4) :
    NearestEven (signFactor neg * (w * 2 ^ t)) (.fin neg m t) := by
  have hu : (0 : Rat) < 2 ^ t := by positivity
  refine ⟨by simp, by simp, fun s m' t' h => ?_⟩
  obtain ⟨rfl, rfl, rfl⟩ := FVal.fin.inj h
  obtain ⟨hhalf, htie⟩ := hround
  rw [abs_sub_signed, abs_signFactor_mul, abs_of_nonneg (show (0 : Rat) ≤ w * 2 ^ t by positivity)]
  refine ⟨hm, ht.1, ht.2, hnormal, eq_decide_signFactor_mul_neg neg _ (by positivity), ?_, fun h => htie ?_,
    fun hm' ht' hlt => ?_⟩
  · linarith [mul_le_mul_of_nonneg_right hhalf hu.le]
  · exact mul_right_cancel₀ hu.ne' (by linarith)
  · have hw' : w < 2 ^ 23 := by simpa using lt_of_mul_lt_mul_right hlt hu.le
    linarith [mul_le_mul_of_nonneg_right (hbelow hm' ht' hw') hu.le]

/-- Zero of either sign is zero rounded once. -/
theorem nearestEven_zero (neg : Bool) : NearestEven 0 (.fin neg 0 (-149)) := by
  have := nearestEven_fin neg 0 0 (-149) le_rfl (by norm_num) (by norm_num) (.inr rfl) (.of_lt (by norm_num))
    (by norm_num)
  simpa using this

/-- Infinity is a magnitude at or past the overflow threshold rounded once. -/
theorem nearestEven_inf (neg : Bool) (a : Rat) (h : (2 ^ 25 - 1 : Rat) * 2 ^ (103 : Int) ≤ a) :
    NearestEven (signFactor neg * a) (.inf neg) := by
  have ha : 0 < a := lt_of_lt_of_le (by positivity) h
  refine ⟨by simp, fun s hs => ?_, by simp⟩
  obtain rfl := FVal.inf.inj hs
  rw [abs_signFactor_mul, abs_of_pos ha]
  refine ⟨h, eq_decide_signFactor_mul_neg neg a ha.le ?_⟩
  cases neg <;> simp [signFactor, ha.ne']

/-- The exponent of the unit `roundTo` rounds to. -/
def roundExp (n : Nat) (e : Int) : Int := max (e + Nat.log2 n - 23) (-149)

/-- The significand `roundTo` rounds to, before a carry into the next binade. -/
def roundSig (n : Nat) (e : Int) : Nat :=
  if roundExp n e ≤ e then n * 2 ^ (e - roundExp n e).toNat else roundShift n (roundExp n e - e).toNat

/-- Rounding no units. -/
theorem roundTo_zero (neg : Bool) (e : Int) : roundTo neg 0 e = .fin neg 0 (-149) := rfl

/-- Rounding by significand and exponent, with the carry into the next binade and the overflow. -/
theorem roundTo_of_ne_zero (neg : Bool) (n : Nat) (e : Int) (hn : n ≠ 0) :
    roundTo neg n e =
      if roundSig n e = 2 ^ 24 then
        (if roundExp n e + 1 ≤ 104 then .fin neg (2 ^ 23) (roundExp n e + 1) else .inf neg)
      else if roundExp n e ≤ 104 then .fin neg (roundSig n e) (roundExp n e) else .inf neg := by
  rw [roundTo, if_neg hn]; rfl

/-- A finite result keeps the sign. -/
theorem roundTo_sign (neg : Bool) (n : Nat) (e : Int) (s : Bool) (m : Nat) (t : Int)
    (h : roundTo neg n e = .fin s m t) : s = neg := by
  by_cases hn : n = 0
  · subst hn
    exact (FVal.fin.inj ((roundTo_zero neg e).symm.trans h)).1.symm
  · rw [roundTo_of_ne_zero neg n e hn] at h
    split at h <;> split at h <;> simp_all

/-- The integer `n` stands for the number `y` where `roundTo` is concerned: it is `y`, or it has so many bits that all
`roundTo` drops can be told apart, and it is the odd one of the integers next to `y`, its last bit the sticky bit. -/
def StandsFor (n : Nat) (y : Rat) : Prop :=
  y = n ∨ (2 ^ 25 ≤ n ∧ n % 2 = 1 ∧ (n : Rat) - 1 < y ∧ y < n + 1)

/-- The binade of `n` is the binade of what it stands for: a power of two is even, so the sticky bit does not reach
it. -/
theorem StandsFor.binade {n : Nat} {y : Rat} (h : StandsFor n y) (hn : n ≠ 0) :
    (2 : Rat) ^ Nat.log2 n ≤ y ∧ y ≤ 2 ^ (Nat.log2 n + 1) := by
  have hlo : 2 ^ Nat.log2 n ≤ n := Nat.log2_self_le hn
  have hhi : n < 2 ^ (Nat.log2 n + 1) := Nat.lt_log2_self
  have hhi' : (n : Rat) + 1 ≤ 2 ^ (Nat.log2 n + 1) := by exact_mod_cast hhi
  rcases h with rfl | ⟨hbig, hodd, hlow, hhigh⟩
  · exact ⟨by exact_mod_cast hlo, by linarith⟩
  · have hlog : 25 ≤ Nat.log2 n := (Nat.le_log2 hn).2 hbig
    have heven : 2 ^ Nat.log2 n = 2 * 2 ^ (Nat.log2 n - 1) := by rw [← pow_succ']; congr 1; omega
    have hlo' : (2 : Rat) ^ Nat.log2 n + 1 ≤ n := by exact_mod_cast (by omega : 2 ^ Nat.log2 n + 1 ≤ n)
    exact ⟨by linarith, by linarith⟩

/-- `roundShift` rounds an integer. -/
theorem roundShift_roundsTo (n d : Nat) : RoundsTo ((n : Rat) / 2 ^ d) (roundShift n d) := by
  obtain ⟨hup, hdown, htieUp, htieDown⟩ := roundShift_spec n d
  have hp : (0 : Rat) < 2 ^ d := by positivity
  generalize roundShift n d = r at *
  have hup' : 2 * ((r : Rat) * 2 ^ d) ≤ 2 * n + 2 ^ d := by exact_mod_cast hup
  have hdown' : 2 * (n : Rat) ≤ 2 * (r * 2 ^ d) + 2 ^ d := by exact_mod_cast hdown
  have hdiff : ((n : Rat) / 2 ^ d - r) * 2 ^ d = n - r * 2 ^ d := by field_simp
  refine ⟨abs_le.2 ⟨?_, ?_⟩, fun h => ?_⟩
  · exact le_of_mul_le_mul_right (by linarith) hp
  · exact le_of_mul_le_mul_right (by linarith) hp
  · rcases (abs_eq (by norm_num)).1 h with h | h <;> rw [h] at hdiff
    · exact htieDown (by exact_mod_cast (by linarith : 2 * (n : Rat) = 2 * (r * 2 ^ d) + 2 ^ d))
    · exact htieUp (by exact_mod_cast (by linarith : 2 * ((r : Rat) * 2 ^ d) = 2 * n + 2 ^ d))

/-- `roundShift` rounds what an odd `n` with a sticky bit stands for, if it drops another bit besides: halfway points
are then even. -/
theorem roundShift_roundsTo_of_sticky (n d : Nat) (y : Rat) (hd : 2 ≤ d) (hodd : n % 2 = 1) (hlow : (n : Rat) - 1 < y)
    (hhigh : y < n + 1) : RoundsTo (y / 2 ^ d) (roundShift n d) := by
  obtain ⟨hup, hdown, -, -⟩ := roundShift_spec n d
  have hp : (0 : Rat) < 2 ^ d := by positivity
  generalize roundShift n d = r at *
  obtain ⟨j, rfl⟩ : ∃ j, d = j + 2 := ⟨d - 2, by omega⟩
  have hpow : 2 ^ (j + 2) = 4 * 2 ^ j := by rw [pow_add]; ring
  have hprod : r * 2 ^ (j + 2) = 4 * (r * 2 ^ j) := by rw [hpow]; ring
  have hup' : (r : Rat) * 2 ^ (j + 2) + 1 ≤ n + 2 * 2 ^ j := by
    exact_mod_cast (by omega : r * 2 ^ (j + 2) + 1 ≤ n + 2 * 2 ^ j)
  have hdown' : (n : Rat) + 1 ≤ r * 2 ^ (j + 2) + 2 * 2 ^ j := by
    exact_mod_cast (by omega : n + 1 ≤ r * 2 ^ (j + 2) + 2 * 2 ^ j)
  have hpow' : (2 : Rat) ^ (j + 2) = 4 * 2 ^ j := by exact_mod_cast hpow
  have hdiff : (y / 2 ^ (j + 2) - r) * 2 ^ (j + 2) = y - r * 2 ^ (j + 2) := by field_simp
  refine .of_lt (abs_lt.2 ⟨?_, ?_⟩)
  · exact lt_of_mul_lt_mul_right (by linarith) hp.le
  · exact lt_of_mul_lt_mul_right (by linarith) hp.le

/-- The significand is what `n` stands for, rounded, in units in the last place. -/
theorem StandsFor.roundSig_roundsTo {n : Nat} {y : Rat} (h : StandsFor n y) (e : Int) (hn : n ≠ 0) :
    RoundsTo (y * 2 ^ (e - roundExp n e)) (roundSig n e) := by
  unfold roundSig
  split
  · rename_i hle
    have hexact : y = n := h.resolve_right fun ⟨hbig, _⟩ => by
      have : 25 ≤ Nat.log2 n := (Nat.le_log2 hn).2 hbig
      unfold roundExp at hle; omega
    obtain ⟨k, hk⟩ := Int.eq_ofNat_of_zero_le (show 0 ≤ e - roundExp n e by omega)
    rw [hk, hexact, Int.toNat_natCast, zpow_natCast]
    exact .of_lt (by simp)
  · rename_i hgt
    obtain ⟨d, hd⟩ := Int.eq_ofNat_of_zero_le (show 0 ≤ roundExp n e - e by omega)
    rw [hd, Int.toNat_natCast, show e - roundExp n e = -(d : Int) by omega, zpow_neg, zpow_natCast, ← div_eq_mul_inv]
    rcases h with rfl | ⟨hbig, hodd, hlow, hhigh⟩
    · exact roundShift_roundsTo n d
    · have : 25 ≤ Nat.log2 n := (Nat.le_log2 hn).2 hbig
      have hd2 : 2 ≤ d := by unfold roundExp at hd; omega
      exact roundShift_roundsTo_of_sticky n d y hd2 hodd hlow hhigh

/-- In units in the last place, the magnitude has at most 24 bits, and exactly 24 but for subnormal results. -/
theorem StandsFor.scaled_range {n : Nat} {y : Rat} (h : StandsFor n y) (e : Int) (hn : n ≠ 0) :
    y * 2 ^ (e - roundExp n e) ≤ 2 ^ 24 ∧ (2 ^ 23 ≤ y * 2 ^ (e - roundExp n e) ∨ roundExp n e = -149) := by
  obtain ⟨hlo, hhi⟩ := h.binade hn
  have hu : (0 : Rat) < 2 ^ (e - roundExp n e) := by positivity
  constructor
  · calc y * 2 ^ (e - roundExp n e) ≤ 2 ^ (Nat.log2 n + 1) * 2 ^ (e - roundExp n e) := by gcongr
      _ = 2 ^ (((Nat.log2 n + 1 : Nat) : Int) + (e - roundExp n e)) := by
        rw [zpow_add₀ two_ne_zero, zpow_natCast]
      _ ≤ 2 ^ (24 : Int) := zpow_le_zpow_right₀ one_le_two (by unfold roundExp; omega)
      _ = 2 ^ 24 := by norm_num
  · by_cases hsub : roundExp n e = -149
    · exact .inr hsub
    · left
      calc (2 : Rat) ^ 23 = 2 ^ (((Nat.log2 n : Nat) : Int) + (e - roundExp n e)) := by
            rw [show ((Nat.log2 n : Nat) : Int) + (e - roundExp n e) = (23 : Nat) by unfold roundExp at *; omega,
              zpow_natCast]
        _ = 2 ^ Nat.log2 n * 2 ^ (e - roundExp n e) := by rw [zpow_add₀ two_ne_zero, zpow_natCast]
        _ ≤ y * 2 ^ (e - roundExp n e) := by gcongr

/-- What lies past the overflow threshold in some unit lies past it. -/
theorem overflow_of_units {w c : Rat} {t k : Int} (hw : c ≤ w) (hk : k ≤ t) (hc : 0 ≤ c)
    (h : (2 ^ 25 - 1 : Rat) * 2 ^ (103 : Int) ≤ c * 2 ^ k) : (2 ^ 25 - 1 : Rat) * 2 ^ (103 : Int) ≤ w * 2 ^ t :=
  h.trans (mul_le_mul hw (zpow_le_zpow_right₀ one_le_two hk) (by positivity) (hc.trans hw))

/-- A significand that rounds up to 24 bits and one carries into the next binade, where the units are twice as
large. -/
theorem nearestEven_carry (neg : Bool) (w : Rat) (t : Int) (ht : -149 ≤ t) (hround : |w - 2 ^ 24| ≤ 1 / 2) :
    NearestEven (signFactor neg * (w * 2 ^ t)) (if t + 1 ≤ 104 then .fin neg (2 ^ 23) (t + 1) else .inf neg) := by
  obtain ⟨hlow, hhigh⟩ := abs_le.1 hround
  split
  · rename_i hfin
    have hquarter : |w / 2 - ((2 ^ 23 : Nat) : Rat)| ≤ 1 / 4 := by
      push_cast; exact abs_le.2 ⟨by linarith, by linarith⟩
    have := nearestEven_fin neg (w / 2) (2 ^ 23) (t + 1) (by linarith) (by norm_num) ⟨by omega, hfin⟩
      (.inl le_rfl) (.of_lt (by linarith)) (fun _ _ _ => hquarter)
    rwa [zpow_add_one₀ two_ne_zero, show w / 2 * (2 ^ t * 2) = w * 2 ^ t by ring] at this
  · exact nearestEven_inf neg _ (overflow_of_units (c := 2 ^ 24 - 1 / 2) (k := 104) (by linarith) (by omega)
      (by norm_num) (by norm_num))

/-- A significand that does not carry is the result's, and the magnitude is not below the result's binade. -/
theorem nearestEven_noCarry (neg : Bool) (w : Rat) (m : Nat) (t : Int) (hw : 0 ≤ w) (ht : -149 ≤ t)
    (hm : m < 2 ^ 24) (hmin : 2 ^ 23 ≤ w ∨ t = -149) (hround : RoundsTo w m) :
    NearestEven (signFactor neg * (w * 2 ^ t)) (if t ≤ 104 then .fin neg m t else .inf neg) := by
  split
  · rename_i hfin
    have hnormal : 2 ^ 23 ≤ m ∨ t = -149 := hmin.imp_left fun h23 => by
      by_contra hlt
      have : (m : Rat) + 1 ≤ 2 ^ 23 := by exact_mod_cast (by omega : m + 1 ≤ 2 ^ 23)
      linarith [(abs_le.1 hround.1).2]
    refine nearestEven_fin neg w m t hw hm ⟨ht, hfin⟩ hnormal hround fun _ hnorm hlt => ?_
    exact absurd (hmin.resolve_right (by omega)) (not_le.2 hlt)
  · exact nearestEven_inf neg _ (overflow_of_units (c := 2 ^ 23) (k := 105) (hmin.resolve_right (by omega))
      (by omega) (by norm_num) (by norm_num))

/-- `roundTo` rounds once, to nearest, ties to even, whatever number its integer stands for. -/
theorem StandsFor.roundTo_nearestEven {n : Nat} {y : Rat} (h : StandsFor n y) (neg : Bool) (e : Int) :
    NearestEven (signFactor neg * (y * 2 ^ e)) (roundTo neg n e) := by
  by_cases hn : n = 0
  · subst hn
    obtain rfl : y = 0 := by simpa [StandsFor] using h
    simpa [roundTo_zero] using nearestEven_zero neg
  obtain ⟨hmax, hmin⟩ := h.scaled_range e hn
  have hround := h.roundSig_roundsTo e hn
  have ht : -149 ≤ roundExp n e := le_max_right _ _
  have hy : 0 ≤ y := le_trans (by positivity) (h.binade hn).1
  have hw : 0 ≤ y * 2 ^ (e - roundExp n e) := by positivity
  have hscale : y * 2 ^ e = y * 2 ^ (e - roundExp n e) * 2 ^ roundExp n e := by
    rw [mul_assoc, ← zpow_add₀ two_ne_zero, sub_add_cancel]
  rw [roundTo_of_ne_zero neg n e hn, hscale]
  split
  · rename_i hcarry
    refine nearestEven_carry neg _ _ ht ?_
    simpa only [hcarry, Nat.cast_pow, Nat.cast_ofNat] using hround.1
  · rename_i hcarry
    have hle : (roundSig n e : Rat) < 2 ^ 24 + 1 := by linarith [(abs_le.1 hround.1).1]
    have hle' : roundSig n e < 2 ^ 24 + 1 := by exact_mod_cast hle
    exact nearestEven_noCarry neg _ _ _ hw ht (by omega) hmin hround

/-- Settles O21: an integer stands for itself. -/
theorem roundingIsNearestEven : Obligations.RoundingIsNearestEven := fun neg n e => by
  refine ⟨?_, fun s m t => roundTo_sign neg n e s m t⟩
  rw [mul_assoc]
  exact StandsFor.roundTo_nearestEven (.inl rfl) neg e

end Sys2Proof.Machine

namespace Sys2Proof.Machine

open Sys2Proof.Safety

/-! ## The four operations on finite operands (`00_scope.md` R15) -/

/-- The sign of a finite pattern is its bit 31. -/
theorem unpack_fin_sign (x : F32) (s : Bool) (m : Nat) (e : Int) (h : unpack x = .fin s m e) : s = x.getLsbD 31 := by
  simp only [unpack] at h
  split at h
  · split at h <;> cases h
  · split at h <;> exact (FVal.fin.inj h).1.symm

/-- The value of a sign, a significand and an exponent. -/
def finValue (s : Bool) (m : Nat) (e : Int) : Rat := signFactor s * (m * 2 ^ e)

/-- The value as `valueOf` writes it. -/
theorem finValue_eq_signed (s : Bool) (m : Nat) (e : Int) : finValue s m e = (signed s m : Rat) * 2 ^ e := by
  rw [signed_cast, finValue, mul_assoc]

/-- Flipping the sign negates. -/
theorem finValue_not (s : Bool) (m : Nat) (e : Int) : finValue (!s) m e = -finValue s m e := by
  cases s <;> simp [finValue, signFactor]

/-- A value other than zero has a significand other than zero. -/
theorem finValue_ne_zero {s : Bool} {m : Nat} {e : Int} (h : finValue s m e ≠ 0) : m ≠ 0 :=
  fun hm => h (by simp [hm, finValue])

/-- A pattern with a value is finite, with bit 31 as its sign and at most 24 significant bits. -/
theorem f32Value_some {x : F32} {v : Rat} (h : f32Value x = some v) :
    ∃ m e, unpack x = .fin (x.getLsbD 31) m e ∧ m < 2 ^ 24 ∧ v = finValue (x.getLsbD 31) m e := by
  cases hu : unpack x with
  | nan => simp [f32Value, hu, valueOf] at h
  | inf s => simp [f32Value, hu, valueOf] at h
  | fin s m e =>
    obtain rfl := unpack_fin_sign x s m e hu
    refine ⟨m, e, rfl, (unpack_fin x _ m e hu).1, ?_⟩
    simp only [f32Value, hu, valueOf, Option.some.injEq] at h
    rw [finValue_eq_signed, h]

/-- The exact sum as an integer of units `2 ^ min e f`. -/
def sumUnits (s : Bool) (m : Nat) (e : Int) (t : Bool) (n : Nat) (f : Int) : Int :=
  signed s m * 2 ^ (e - min e f).toNat + signed t n * 2 ^ (f - min e f).toNat

/-- The sum of finite operands, by its units. -/
theorem fadd32_fin (s : Bool) (m : Nat) (e : Int) (t : Bool) (n : Nat) (f : Int) :
    fadd32 (.fin s m e) (.fin t n f) =
      if sumUnits s m e t n f = 0 then .fin (s && t) 0 (-149)
      else roundTo (decide (sumUnits s m e t n f < 0)) (sumUnits s m e t n f).natAbs (min e f) := rfl

/-- A power of two split at a lower exponent. -/
theorem two_pow_toNat_mul_zpow {e g : Int} (h : g ≤ e) : (2 : Rat) ^ (e - g).toNat * 2 ^ g = 2 ^ e := by
  rw [← zpow_natCast, Int.toNat_of_nonneg (by omega), ← zpow_add₀ two_ne_zero, sub_add_cancel]

/-- The units are exact. -/
theorem sumUnits_cast (s : Bool) (m : Nat) (e : Int) (t : Bool) (n : Nat) (f : Int) :
    (sumUnits s m e t n f : Rat) * 2 ^ min e f = finValue s m e + finValue t n f := by
  rw [finValue_eq_signed, finValue_eq_signed, ← two_pow_toNat_mul_zpow (min_le_left e f),
    ← two_pow_toNat_mul_zpow (min_le_right e f), sumUnits]
  push_cast
  ring

/-- The units are zero exactly when the sum is. -/
theorem sumUnits_eq_zero (s : Bool) (m : Nat) (e : Int) (t : Bool) (n : Nat) (f : Int) :
    sumUnits s m e t n f = 0 ↔ finValue s m e + finValue t n f = 0 := by
  rw [← sumUnits_cast, mul_eq_zero, Int.cast_eq_zero, or_iff_left (by positivity)]

/-- A sum of finite values is rounded once. -/
theorem fadd32_nearestEven (s : Bool) (m : Nat) (e : Int) (t : Bool) (n : Nat) (f : Int) :
    NearestEven (finValue s m e + finValue t n f) (fadd32 (.fin s m e) (.fin t n f)) := by
  rw [fadd32_fin]
  split
  · rename_i h
    rw [(sumUnits_eq_zero s m e t n f).1 h]
    exact nearestEven_zero _
  · rw [← sumUnits_cast, ← signFactor_mul_natAbs, mul_assoc]
    exact StandsFor.roundTo_nearestEven (.inl rfl) _ _

/-- A sum that is exactly zero is +0, but of two negative zeros. -/
theorem fadd32_exact_zero (s : Bool) (m : Nat) (e : Int) (t : Bool) (n : Nat) (f : Int)
    (h : finValue s m e + finValue t n f = 0) : fadd32 (.fin s m e) (.fin t n f) = .fin (s && t) 0 (-149) := by
  rw [fadd32_fin, if_pos ((sumUnits_eq_zero s m e t n f).2 h)]

/-- A difference is a sum with the second sign flipped. -/
theorem fsub32_fin (s : Bool) (m : Nat) (e : Int) (t : Bool) (n : Nat) (f : Int) :
    fsub32 (.fin s m e) (.fin t n f) = fadd32 (.fin s m e) (.fin (!t) n f) := rfl

/-- So is the exact difference. -/
theorem finValue_sub (s : Bool) (m : Nat) (e : Int) (t : Bool) (n : Nat) (f : Int) :
    finValue s m e - finValue t n f = finValue s m e + finValue (!t) n f := by
  rw [finValue_not, sub_eq_add_neg]

/-- The product of finite operands. -/
theorem fmul32_fin (s : Bool) (m : Nat) (e : Int) (t : Bool) (n : Nat) (f : Int) :
    fmul32 (.fin s m e) (.fin t n f) = roundTo (s ^^ t) (m * n) (e + f) := rfl

/-- A product of finite values is rounded once. -/
theorem fmul32_nearestEven (s : Bool) (m : Nat) (e : Int) (t : Bool) (n : Nat) (f : Int) :
    NearestEven (finValue s m e * finValue t n f) (fmul32 (.fin s m e) (.fin t n f)) := by
  have hexact : finValue s m e * finValue t n f = signFactor (s ^^ t) * (((m * n : Nat) : Rat) * 2 ^ (e + f)) := by
    rw [finValue, finValue, signFactor_xor, zpow_add₀ two_ne_zero]; push_cast; ring
  rw [hexact, fmul32_fin]
  exact StandsFor.roundTo_nearestEven (.inl rfl) _ _

/-- The significand of a quotient before rounding: 60 bits below the point and the sticky bit. -/
def quotientSig (m n : Nat) : Nat := 2 * (m * 2 ^ 60 / n) + (if m * 2 ^ 60 % n = 0 then 0 else 1)

/-- The quotient of finite operands, by its significand. -/
theorem fdiv32_fin (s : Bool) (m : Nat) (e : Int) (t : Bool) (n : Nat) (f : Int) (hn : n ≠ 0) :
    fdiv32 (.fin s m e) (.fin t n f) = roundTo (s ^^ t) (quotientSig m n) (e - f - 61) := by
  simp only [fdiv32, if_neg hn, quotientSig]

/-- The integer part of a scaled quotient has more than 24 bits: the divisor has at most 24. -/
theorem quotient_bits (m n : Nat) (hm : m ≠ 0) (hn : n ≠ 0) (hn24 : n < 2 ^ 24) : 2 ^ 24 ≤ m * 2 ^ 60 / n := by
  rw [Nat.le_div_iff_mul_le (Nat.pos_of_ne_zero hn)]
  calc 2 ^ 24 * n ≤ 2 ^ 24 * 2 ^ 24 := by gcongr
    _ ≤ 1 * 2 ^ 60 := by norm_num
    _ ≤ m * 2 ^ 60 := Nat.mul_le_mul_right _ (Nat.one_le_iff_ne_zero.2 hm)

/-- The significand stands for the exact quotient: a divisor of at most 24 bits leaves enough bits before the sticky
bit. -/
theorem quotientSig_standsFor (m n : Nat) (hn : n ≠ 0) (hn24 : n < 2 ^ 24) :
    StandsFor (quotientSig m n) ((m : Rat) / n * 2 ^ 61) := by
  have hpos : (0 : Rat) < n := by exact_mod_cast Nat.pos_of_ne_zero hn
  have hdm := Nat.div_add_mod (m * 2 ^ 60) n
  have hlt := Nat.mod_lt (m * 2 ^ 60) (Nat.pos_of_ne_zero hn)
  have hval : (m : Rat) / n * 2 ^ 61 = 2 * ((m * 2 ^ 60 : Nat) : Rat) / n := by push_cast; ring
  have hbig : m * 2 ^ 60 % n ≠ 0 → 2 ^ 24 ≤ m * 2 ^ 60 / n := fun h =>
    quotient_bits m n (by rintro rfl; simp at h) hn hn24
  unfold StandsFor quotientSig
  rw [hval]
  generalize m * 2 ^ 60 = a at *
  generalize a / n = q at *
  have hdm' : (n : Rat) * q + (a % n : Nat) = a := by exact_mod_cast hdm
  split
  · rename_i h
    left
    rw [h] at hdm'
    rw [div_eq_iff hpos.ne', ← hdm']
    push_cast
    ring
  · rename_i h
    have hrem : (0 : Rat) < (a % n : Nat) := by exact_mod_cast Nat.pos_of_ne_zero h
    have hrem' : ((a % n : Nat) : Rat) < n := by exact_mod_cast hlt
    refine .inr ⟨?_, by omega, ?_, ?_⟩
    · have := hbig h
      omega
    · rw [lt_div_iff₀ hpos, ← hdm']; push_cast; linarith
    · rw [div_lt_iff₀ hpos, ← hdm']; push_cast; linarith

/-- A quotient of finite values is rounded once: its sticky bit is enough. -/
theorem fdiv32_nearestEven (s : Bool) (m : Nat) (e : Int) (t : Bool) (n : Nat) (f : Int) (hn : n ≠ 0)
    (hn24 : n < 2 ^ 24) : NearestEven (finValue s m e / finValue t n f) (fdiv32 (.fin s m e) (.fin t n f)) := by
  have hexact : finValue s m e / finValue t n f =
      signFactor (s ^^ t) * ((m : Rat) / n * 2 ^ 61 * 2 ^ (e - f - 61)) := by
    have hsign : signFactor s / signFactor t = signFactor s * signFactor t := by
      cases t <;> simp [signFactor, div_neg]
    have hscale : (2 : Rat) ^ 61 * 2 ^ (e - f - 61) = 2 ^ e / 2 ^ f := by
      rw [← zpow_sub₀ two_ne_zero, ← zpow_natCast, ← zpow_add₀ two_ne_zero]; congr 1; omega
    rw [finValue, finValue, mul_div_mul_comm, mul_div_mul_comm, hsign, signFactor_xor, mul_assoc _ (2 ^ 61), hscale]
  rw [hexact, fdiv32_fin s m e t n f hn]
  exact (quotientSig_standsFor m n hn hn24).roundTo_nearestEven _ _

/-- Settles O22: each operation gives `roundTo` an integer that stands for the exact result. -/
theorem binary32OperationsRoundOnce : Obligations.Binary32OperationsRoundOnce := by
  intro p q x y hx hy
  obtain ⟨m, e, hp, -, rfl⟩ := f32Value_some hx
  obtain ⟨n, f, hq, hn24, rfl⟩ := f32Value_some hy
  rw [hp, hq, fsub32_fin, finValue_sub]
  refine ⟨fadd32_nearestEven .., fadd32_exact_zero _ _ _ _ _ _, fadd32_nearestEven ..,
    fadd32_exact_zero _ _ _ _ _ _, fmul32_nearestEven .., fun s k t h => roundTo_sign _ _ _ s k t h, fun hy0 => ?_⟩
  have hn := finValue_ne_zero hy0
  refine ⟨fdiv32_nearestEven _ _ _ _ _ _ hn hn24, fun s k t h => ?_⟩
  rw [fdiv32_fin _ _ _ _ _ _ hn] at h
  exact roundTo_sign _ _ _ s k t h

end Sys2Proof.Machine

/-! PROOFS. The statements of `10_state.md`: the reset values, who writes the lasting state, the released block, and the
invariant of the block's state. -/

namespace Sys2Proof.Machine

open Sys2Proof.Safety

/-! ## What an idle block does in one step (`41_bus_primitives.md` R160, `60_exceptions.md` R280, R283) -/

/-- From `s` to `s'` nothing happens but on the host's side: an input is consumed, an offer queued or taken, or one
response sent. -/
structure OnlyHostSide (s s' : State) : Prop where
  strap : s'.strap = s.strap
  devAddr : s'.devAddr = s.devAddr
  life : s'.life = s.life
  initState : s'.initState = s.initState
  run : s'.run = s.run
  pending : s'.pending = s.pending
  inputs : s'.inputs <:+ s.inputs
  trace : s'.trace = s.trace ∨ ∃ r, s'.trace = s.trace ++ [.responded r]

/-- A response sent without a request, the offer it answers taken off the host port. -/
theorem onlyHostSide_respond (s : State) (offers : List (List Byte)) (r : Response) :
    OnlyHostSide s ({ s with hostPort := offers }.emit (.responded r)) :=
  ⟨rfl, rfl, rfl, rfl, rfl, rfl, List.suffix_rfl, .inr ⟨r, rfl⟩⟩

/-- The state in which an accepted operation is launched. -/
def accepted (i : Instr) (s : State) : State := (microOf i).onAccept (s.accept i)

/-- The block owns its ports and takes operation `i` on: it is a protocol operation with operands in their domain. -/
structure Accepts (i : Instr) (s : State) : Prop where
  protocol : i.isProtocol = true
  life : s.life = .active
  operands : operandOk i = true

/-- An operation offered to an idle block is answered at once, without a request, or accepted and launched. -/
theorem exec_idle_cases (i : Instr) (s : State) (hr : s.run = .idle) :
    (∃ r, exec i s = .next (s.emit (.responded r))) ∨
    (Accepts i s ∧ exec i s = launch (microOf i) (accepted i s)) := by
  rcases exec_cases i s with ⟨hp, he⟩ | ⟨-, v, he⟩
  · cases hl : s.life with
    | released => exact .inl ⟨_, he.trans (protocolOp_released i _ s hr hl)⟩
    | active =>
      cases ho : operandOk i with
      | false => exact .inl ⟨_, he.trans (protocolOp_badOperand i _ s hr hl ho)⟩
      | true => exact .inr ⟨⟨hp, hl, ho⟩, he.trans (protocolOp_accepted i _ s hr hl ho)⟩
  · exact .inl ⟨_, he.trans (codecOp_idle i v s hr)⟩

/-- A step of an idle block with an operation offered executes it, the offer taken off the host port. -/
theorem step_idle_operation (s : State) (o : List Byte) (rest : List (List Byte)) (i : Instr)
    (hr : s.run = .idle) (hp : s.hostPort = o :: rest) (hd : decode o = .instr i) :
    step s = exec i { s with hostPort := rest } := by
  simp [step, fetch, hr, hp, takeOffer, hd]

/-- An idle block with nothing offered is reset, or takes in at most one other input. -/
theorem takeInput_cases (s : State) :
    (∃ rest, s.inputs = .reset :: rest ∧ takeInput s = .next { s with inputs := rest }.onReset) ∨
    (∃ s', takeInput s = .next s' ∧ OnlyHostSide s s') := by
  unfold takeInput
  split
  case h_1 => exact .inr ⟨s, rfl, rfl, rfl, rfl, rfl, rfl, rfl, List.suffix_rfl, .inl rfl⟩
  case h_2 o rest h =>
    exact .inr ⟨_, rfl, rfl, rfl, rfl, rfl, rfl, rfl, h ▸ List.suffix_cons _ _, .inl rfl⟩
  case h_3 rest h => exact .inl ⟨rest, h, rfl⟩
  case h_4 a rest h =>
    exact .inr ⟨_, rfl, rfl, rfl, rfl, rfl, rfl, rfl, h ▸ List.suffix_cons _ _, .inl rfl⟩

/-- A step of an idle block is a reset, or touches the host's side alone, or launches an operation it accepts. -/
theorem step_idle_cases (s : State) (hr : s.run = .idle) :
    (∃ rest, s.inputs = .reset :: rest ∧ step s = .next { s with inputs := rest }.onReset) ∨
    (∃ s', step s = .next s' ∧ OnlyHostSide s s') ∨
    (∃ i offers, worksOn s i ∧ Accepts i { s with hostPort := offers } ∧
      step s = launch (microOf i) (accepted i { s with hostPort := offers })) := by
  by_cases hp : s.hostPort = []
  · rw [step_idle_input s hr hp]
    rcases takeInput_cases s with hreset | htaken
    · exact .inl hreset
    · exact .inr (.inl htaken)
  · obtain ⟨o, rest, hp⟩ := List.exists_cons_of_ne_nil hp
    cases hd : decode o with
    | reject e => exact .inr (.inl ⟨_, step_idle_reject s o rest e hr hp hd, onlyHostSide_respond s rest _⟩)
    | instr i =>
      rw [step_idle_operation s o rest i hr hp hd]
      rcases exec_idle_cases i { s with hostPort := rest } hr with ⟨r, he⟩ | ⟨hacc, he⟩
      · exact .inr (.inl ⟨_, he, onlyHostSide_respond s rest r⟩)
      · exact .inr (.inr ⟨i, rest, .inr ⟨hr, o, rest, hp, hd⟩, hacc, he⟩)

/-! ## Reset (`10_state.md` R48) -/

/-- Reset, when it is the next input the block looks at. -/
theorem step_reset (s : State) (rest : List Input) (hx : s.inputs = .reset :: rest)
    (hs : s.busy = true ∨ s.hostPort = []) : step s = .next { s with inputs := rest }.onReset := by
  by_cases hb : s.busy = true
  · obtain ⟨op, scr, acc, hr⟩ := (State.busy_eq_true s).1 hb
    rw [step_running s op scr acc hr, hx, drive_reset]
  · have hr : s.run = .idle := (State.busy_eq_false s).1 (by simpa using hb)
    rw [step_idle_input s hr (hs.resolve_left hb)]
    simp [takeInput, hx]

/-- Settles O12: the step is `State.onReset`, whose fields are the reset values. -/
theorem resetGivesTheResetValues : Obligations.ResetGivesTheResetValues := fun s rest hx hs =>
  ⟨_, step_reset s rest hx hs, fun hstrap => by simp [hstrap, deviceAddress],
    fun hstrap => by simp [hstrap, deviceAddress], rfl, rfl, rfl, rfl, rfl, rfl, rfl, rfl, rfl⟩

/-- Settles O13: each field is the literal of `State.reset`. -/
theorem resetStateValues : Obligations.ResetStateValues :=
  ⟨rfl, rfl, rfl, rfl, rfl, rfl, rfl, rfl, rfl⟩

/-- Settles O57: the primary address, nothing outstanding, `INIT_STATE` Start, which is settled. -/
theorem resetMeetsInvariant : Obligations.ResetMeetsInvariant := ⟨.inl rfl, rfl, rfl⟩

/-! ## The released block (`10_state.md` R22, `43_initialize.md` R245) -/

/-- The trace of `s'` extends the trace of `s` by events that are no requests. -/
def AddsNoRequest (s s' : State) : Prop :=
  ∃ es : List Event, s'.trace = s.trace ++ es ∧ ∀ e ∈ es, isRequest e = false

/-- Nothing happening issues no request. -/
theorem AddsNoRequest.refl (s : State) : AddsNoRequest s s := ⟨[], by simp, by simp⟩

/-- Extensions without requests compose. -/
theorem AddsNoRequest.trans {s s1 s2 : State} (h1 : AddsNoRequest s s1) (h2 : AddsNoRequest s1 s2) :
    AddsNoRequest s s2 := by
  obtain ⟨es1, ht1, hs1⟩ := h1
  obtain ⟨es2, ht2, hs2⟩ := h2
  refine ⟨es1 ++ es2, by rw [ht2, ht1, List.append_assoc], fun e he => ?_⟩
  exact (List.mem_append.mp he).elim (hs1 e) (hs2 e)

/-- On the host's side there are no requests. -/
theorem OnlyHostSide.addsNoRequest {s s' : State} (h : OnlyHostSide s s') : AddsNoRequest s s' := by
  rcases h.trace with ht | ⟨r, ht⟩
  · exact ⟨[], by simp [ht], by simp⟩
  · exact ⟨[.responded r], ht, by simp [isRequest]⟩

/-- Released, with nothing running and no reset to come. -/
structure ReleasedAtRest (s : State) : Prop where
  life : s.life = .released
  run : s.run = .idle
  noReset : Input.reset ∉ s.inputs

/-- A released block at rest accepts nothing, so its step touches the host's side alone. -/
theorem ReleasedAtRest.step {s s' : State} (hs : ReleasedAtRest s) (h : step s = .next s') :
    ReleasedAtRest s' ∧ AddsNoRequest s s' := by
  rcases step_idle_cases s hs.run with ⟨rest, hx, -⟩ | ⟨s1, h1, hside⟩ | ⟨i, offers, -, hacc, -⟩
  · exact absurd (hx ▸ List.mem_cons_self) hs.noReset
  · obtain rfl : s1 = s' := Host.Outcome.next.inj (h1.symm.trans h)
    exact ⟨⟨hside.life.trans hs.life, hside.run.trans hs.run, fun hm => hs.noReset (hside.inputs.subset hm)⟩,
      hside.addsNoRequest⟩
  · exact absurd (hs.life.symm.trans hacc.life) (by simp)

/-- A run of `n + 1` steps that goes through is a step and a run of `n`. -/
theorem runSteps_succ_next {n : Nat} {s s' : State} (h : runSteps (n + 1) s = .next s') :
    ∃ s1, step s = .next s1 ∧ runSteps n s1 = .next s' := by
  unfold runSteps at h
  split at h
  · exact ⟨_, ‹_›, h⟩
  · simp at h
  · simp at h

/-- A released block stays at rest, and issues no request, for any number of steps. -/
theorem ReleasedAtRest.runSteps (n : Nat) {s s' : State} (hs : ReleasedAtRest s) (h : runSteps n s = .next s') :
    ReleasedAtRest s' ∧ AddsNoRequest s s' := by
  induction n generalizing s with
  | zero =>
    obtain rfl : s = s' := Host.Outcome.next.inj h
    exact ⟨hs, .refl s⟩
  | succ n ih =>
    obtain ⟨s1, hstep, hrun⟩ := runSteps_succ_next h
    obtain ⟨hs1, hadd1⟩ := hs.step hstep
    obtain ⟨hs', hadd⟩ := ih hs1 hrun
    exact ⟨hs', hadd1.trans hadd⟩

/-- Settles O54, by induction on the number of steps: a released block at rest accepts no operation. -/
theorem releasedBlockIssuesNoRequest : Obligations.ReleasedBlockIssuesNoRequest := fun n s s' hl hr hx h => by
  obtain ⟨hs', hadd⟩ := ReleasedAtRest.runSteps n ⟨hl, hr, hx⟩ h
  exact ⟨hs'.life, hs'.run, hadd⟩

/-! ## Rules of the engine: what leads from a running operation to the end of a step -/

/-- The operation goes on in a state with `N`, or has ended in one with `E`. -/
def Progress.Meets (N E : State → Prop) : Progress → Prop
  | .next s => N s
  | .done s => E s

/-- A turn that goes on took no answer, or issues the next request after the checks; one that ends has the checks' final
state. -/
theorem takeTurn_leads (N E : State → Prop) (m : MicroOp) (a : Answer) (s : State)
    (hAfter : ∀ read, (m.after s.seq ((s.takeAnswer a).loadScr read)).Meets N E)
    (hErr : ∀ t, (m.onErr s.seq t (s.takeAnswer a)).Meets N E) :
    (∀ s', takeTurn m a s = .goesOn s' → s' = s ∨ ∃ s1, N s1 ∧ s' = issueAt m (s.seq + 1) s1) ∧
    (∀ s', takeTurn m a s = .ended s' → E s') := by
  have hproceed : ∀ p : Progress, p.Meets N E →
      (∀ s', proceed m s.seq p = .goesOn s' → s' = s ∨ ∃ s1, N s1 ∧ s' = issueAt m (s.seq + 1) s1) ∧
      (∀ s', proceed m s.seq p = .ended s' → E s') := by
    rintro (s1 | s1) hp
    · exact ⟨fun s' h => .inr ⟨s1, hp, (Turn.goesOn.inj h).symm⟩, by simp⟩
    · exact ⟨by simp, fun s' h => Turn.ended.inj h ▸ hp⟩
  rcases takeTurn_cases m a s with ⟨read, -, h⟩ | ⟨t, -, h⟩ | ⟨-, h⟩ | ⟨-, h⟩ <;> rw [h]
  · exact hproceed _ (hAfter read)
  · exact hproceed _ (hErr t)
  · exact ⟨fun s' h => .inl (Turn.goesOn.inj h).symm, by simp⟩
  · simp

/-- Driving leads from `P` to `Q` if every input either keeps `P` and goes on, or ends the drive in `Q`. Reset needs
care only where it can come. -/
theorem drive_leads (P Q : State → Prop) (m : MicroOp) (xs : List Input)
    (hHeld : ∀ s, P s → Q { s with inputs := [] })
    (hOffer : ∀ s o, P s → P (s.enqueue o))
    (hReset : Input.reset ∈ xs → ∀ s rest, P s → Q { s with inputs := rest }.onReset)
    (hGoesOn : ∀ a s s', P s → takeTurn m a s = .goesOn s' → P s')
    (hEnded : ∀ a s s' rest, P s → takeTurn m a s = .ended s' → Q { s' with inputs := rest })
    {s s' : State} (hs : P s) (h : drive m xs s = .next s') : Q s' := by
  induction xs generalizing s with
  | nil => exact Host.Outcome.next.inj h ▸ hHeld s hs
  | cons x rest ih =>
    have ih := @ih fun hm => hReset (List.mem_cons_of_mem _ hm)
    cases x with
    | offer o => exact ih (hOffer s o hs) h
    | reset => exact Host.Outcome.next.inj h ▸ hReset List.mem_cons_self s rest hs
    | answer a =>
      cases ht : takeTurn m a s with
      | goesOn s1 => exact ih (hGoesOn a s s1 hs ht) (drive_goesOn m a rest s s1 ht ▸ h)
      | ended s1 =>
        rw [drive_ended m a rest s s1 ht, Host.Outcome.next.injEq] at h
        exact h ▸ hEnded a s s1 rest hs ht
      | broken => simp [drive_broken m a rest s ht] at h

/-- A launched operation without requests ends with its checks; any other issues request 0 and is driven. -/
theorem launch_leads (Q : State → Prop) (m : MicroOp) {s s' : State}
    (hEmpty : m.table = [] → (m.after 0 s).Meets Q Q)
    (hDrive : m.table ≠ [] → drive m s.inputs (issueAt m 0 s) = .next s' → Q s')
    (h : launch m s = .next s') : Q s' := by
  cases ht : m.table with
  | nil =>
    have hq := hEmpty ht
    simp only [launch, ht] at h
    cases ha : m.after 0 s <;> simp only [ha, Host.Outcome.next.injEq, Progress.Meets] at h hq <;> exact h ▸ hq
  | cons q qs => exact hDrive (by simp [ht]) (launch_table m q qs s ht ▸ h)

/-! ## The micro-sequences (`41_bus_primitives.md` R160, R161, R166) -/

/-- Requests one after the other: between them a result is kept at most, after the last the operation succeeds, and a
transport error fails fast. -/
structure MicroOp.Straight (m : MicroOp) : Prop where
  requests : m.table ≠ []
  onAccept : ∀ s, m.onAccept s = s
  after : ∀ k s, (k + 1 < m.table.length ∧ ∃ f, m.after k s = .next (s.keep f)) ∨
    ∃ v, m.after k s = .done (s.succeed v)
  onErr : ∀ k t s, m.onErr k t s = .done (s.raise (.busError t))

/-- Keeping nothing new changes nothing. -/
theorem State.keep_id (s : State) : s.keep id = s := by
  unfold State.keep
  split
  · rfl
  · next hr => rw [id, ← hr]

/-- A micro-sequence without checks is straight if it keeps results at most. -/
theorem straightLine_straight (q : MicroReq) (qs : List MicroReq) (between : Nat → State → State)
    (result : State → Value) (hb : ∀ k s, ∃ f, between k s = s.keep f) :
    (straightLine (q :: qs) between result).Straight where
  requests := by simp [straightLine]
  onAccept _ := rfl
  after k s := by
    by_cases hk : k + 1 < (q :: qs).length
    · obtain ⟨f, hf⟩ := hb k s
      exact .inl ⟨hk, f, by simp only [straightLine, hk, if_true, hf]⟩
    · exact .inr ⟨result s, by simp only [straightLine, hk, if_false]⟩
  onErr _ _ _ := rfl

/-- `GET_MEASUREMENTS` keeps one result after each of its first reads (`42_accessors.md` R210). -/
theorem keepMeasurement_keep (k : Nat) (s : State) : ∃ f, keepMeasurement k s = s.keep f := by
  unfold keepMeasurement; split <;> exact ⟨_, rfl⟩

/-- The four kinds of micro-sequences: `INITIALIZE`, `RELEASE`, none for a codec operation, and the straight ones. -/
theorem microOf_cases (i : Instr) :
    i = .initializeSensor ∨ i = .release ∨ (i.isProtocol = false ∧ microOf i = microNone) ∨
    (i ≠ .initializeSensor ∧ (microOf i).Straight) := by
  cases i with
  | initializeSensor => exact .inl rfl
  | release => exact .inr (.inl rfl)
  | getTempRhComp => exact .inr (.inr (.inr ⟨by simp, straightLine_straight _ _ _ _ fun _ _ => ⟨_, rfl⟩⟩))
  | getMeasurements => exact .inr (.inr (.inr ⟨by simp, straightLine_straight _ _ _ _ keepMeasurement_keep⟩))
  | writeCommand | readRegister | setOperationMode | getPartId | getFirmwareVersion | clearCommand | getEco2 | getTvoc
  | getAirqualityIndex | getEtoh | getRawResistance | getStatus | getGroupData | setTempRhComp | configInterruptPin =>
    exact .inr (.inr (.inr ⟨by simp, straightLine_straight _ _ _ _ fun _ s => ⟨id, s.keep_id.symm⟩⟩))
  | _ => exact .inr (.inr (.inl ⟨rfl, rfl⟩))

/-! ## The lasting state and its writers (`10_state.md` R20 to R23) -/

/-- What working on operation `i` keeps: `DEVADDR` and the strap always, `INIT_STATE` unless it is `INITIALIZE`, `LIFE`
unless it is `RELEASE`. -/
structure KeepsLasting (i : Instr) (s s' : State) : Prop where
  strap : s'.strap = s.strap
  devAddr : s'.devAddr = s.devAddr
  initState : i ≠ .initializeSensor → s'.initState = s.initState
  life : i ≠ .release → s'.life = s.life

/-- Nothing written, all kept. -/
theorem KeepsLasting.refl (i : Instr) (s : State) : KeepsLasting i s s := ⟨rfl, rfl, fun _ => rfl, fun _ => rfl⟩

/-- What two parts of the work keep, both together keep. -/
theorem KeepsLasting.trans {i : Instr} {s s1 s2 : State} (h1 : KeepsLasting i s s1) (h2 : KeepsLasting i s1 s2) :
    KeepsLasting i s s2 :=
  ⟨h2.strap.trans h1.strap, h2.devAddr.trans h1.devAddr, fun hi => (h2.initState hi).trans (h1.initState hi),
    fun hi => (h2.life hi).trans (h1.life hi)⟩

/-- Storing an answer is no write to the lasting state. -/
theorem keepsLasting_loadScr (i : Instr) (s : State) (a : Answer) (read : Option (List Byte)) :
    KeepsLasting i s ((s.takeAnswer a).loadScr read) :=
  ⟨by simp, by simp, by simp, by simp⟩

/-- Issuing a request is no write to the lasting state. -/
theorem keepsLasting_issueAt (i : Instr) (m : MicroOp) (k : Nat) (s : State) : KeepsLasting i s (issueAt m k s) := by
  obtain ⟨hstrap, hdev, hlife, hinit, -⟩ := issueAt_frame m k s
  exact ⟨hstrap, hdev, fun _ => hinit, fun _ => hlife⟩

/-- A progress whose state, going on or ended, keeps what operation `i` keeps. -/
def Progress.KeepsLasting (i : Instr) (s : State) (p : Progress) : Prop :=
  p.Meets (Machine.KeepsLasting i s) (Machine.KeepsLasting i s)

/-- The checks of `INITIALIZE` write `INIT_STATE` alone. -/
theorem initAfter_keepsLasting (checkIdle : Bool) (k : Nat) (s : State) :
    (initAfter checkIdle k s).KeepsLasting .initializeSensor s := by
  unfold initAfter
  split
  · unfold afterIdleReadback; split <;> exact ⟨rfl, rfl, by simp, fun _ => rfl⟩
  · unfold afterPartId; split <;> exact ⟨rfl, rfl, by simp, fun _ => rfl⟩
  · exact ⟨rfl, rfl, by simp, fun _ => rfl⟩
  · exact ⟨rfl, rfl, by simp, fun _ => rfl⟩
  · unfold afterStandardReadback; split <;> exact ⟨rfl, rfl, by simp, fun _ => rfl⟩
  · exact ⟨rfl, rfl, by simp, fun _ => rfl⟩
  · exact .refl _ s

/-- Acceptance writes `INIT_STATE` for `INITIALIZE`, and nothing else that lasts. -/
theorem accepted_keepsLasting (i : Instr) (s : State) : KeepsLasting i s (accepted i s) := by
  unfold accepted
  rcases microOf_cases i with rfl | rfl | ⟨-, hm⟩ | ⟨-, hm⟩
  · exact ⟨rfl, rfl, by simp, fun _ => rfl⟩
  · exact ⟨rfl, rfl, fun _ => rfl, by simp⟩
  · rw [hm]; exact ⟨rfl, rfl, fun _ => rfl, fun _ => rfl⟩
  · rw [hm.onAccept]; exact ⟨rfl, rfl, fun _ => rfl, fun _ => rfl⟩

/-- The checks after an answer write `INIT_STATE` for `INITIALIZE` and `LIFE` for `RELEASE`, and nothing else that
lasts. -/
theorem after_keepsLasting (i : Instr) (k : Nat) (s : State) : ((microOf i).after k s).KeepsLasting i s := by
  rcases microOf_cases i with rfl | rfl | ⟨-, hm⟩ | ⟨-, hm⟩
  · exact initAfter_keepsLasting _ k s
  · exact ⟨rfl, rfl, fun _ => rfl, by simp⟩
  · rw [hm]; exact .refl i s
  · rcases hm.after k s with ⟨-, f, h⟩ | ⟨v, h⟩ <;> rw [h]
    · exact ⟨by simp, by simp, by simp, by simp⟩
    · exact ⟨rfl, rfl, fun _ => rfl, fun _ => rfl⟩

/-- A transport error writes `INIT_STATE` for `INITIALIZE`, and nothing else that lasts. -/
theorem onErr_keepsLasting (i : Instr) (k : Nat) (t : BusErr) (s : State) :
    ((microOf i).onErr k t s).KeepsLasting i s := by
  rcases microOf_cases i with rfl | rfl | ⟨-, hm⟩ | ⟨-, hm⟩
  · change (initOnErr k t s).KeepsLasting _ s
    unfold initOnErr; split <;> exact ⟨rfl, rfl, by simp, fun _ => rfl⟩
  · exact ⟨rfl, rfl, fun _ => rfl, fun _ => rfl⟩
  · rw [hm]; exact ⟨rfl, rfl, fun _ => rfl, fun _ => rfl⟩
  · rw [hm.onErr]; exact ⟨rfl, rfl, fun _ => rfl, fun _ => rfl⟩

/-- What follows part of the work keeps what the whole keeps. -/
theorem Progress.KeepsLasting.after {i : Instr} {s s1 : State} {p : Progress} (hp : p.KeepsLasting i s1)
    (h1 : Machine.KeepsLasting i s s1) : p.KeepsLasting i s := by
  cases p <;> exact h1.trans hp

/-- A turn of operation `i` keeps what it keeps. -/
theorem takeTurn_keepsLasting (i : Instr) (a : Answer) (s : State) :
    (∀ s', takeTurn (microOf i) a s = .goesOn s' → KeepsLasting i s s') ∧
    (∀ s', takeTurn (microOf i) a s = .ended s' → KeepsLasting i s s') := by
  obtain ⟨hgo, hend⟩ := takeTurn_leads (KeepsLasting i s) (KeepsLasting i s) (microOf i) a s
    (fun read => (after_keepsLasting i _ _).after (keepsLasting_loadScr i s a read))
    (fun t => (onErr_keepsLasting i _ t _).after (keepsLasting_loadScr i s a none))
  refine ⟨fun s' h => ?_, hend⟩
  rcases hgo s' h with rfl | ⟨s1, h1, rfl⟩
  · exact .refl i s'
  · exact h1.trans (keepsLasting_issueAt i _ _ s1)

/-- Without a reset, driving operation `i` keeps what it keeps. -/
theorem drive_keepsLasting (i : Instr) (xs : List Input) {s s' : State} (hx : Input.reset ∉ xs)
    (h : drive (microOf i) xs s = .next s') : KeepsLasting i s s' :=
  drive_leads (KeepsLasting i s) (KeepsLasting i s) (microOf i) xs
    (hHeld := fun _ hs => ⟨hs.strap, hs.devAddr, hs.initState, hs.life⟩)
    (hOffer := fun _ _ hs => ⟨hs.strap, hs.devAddr, hs.initState, hs.life⟩)
    (hReset := fun hm => absurd hm hx)
    (hGoesOn := fun a s1 s2 hs ht => hs.trans ((takeTurn_keepsLasting i a s1).1 s2 ht))
    (hEnded := fun a s1 s2 _ hs ht =>
      have h2 := hs.trans ((takeTurn_keepsLasting i a s1).2 s2 ht)
      ⟨h2.strap, h2.devAddr, h2.initState, h2.life⟩)
    (.refl i s) h

/-- Without a reset, an accepted operation keeps what it keeps. -/
theorem launch_keepsLasting (i : Instr) {s s' : State} (hx : Input.reset ∉ s.inputs)
    (h : launch (microOf i) (accepted i s) = .next s') : KeepsLasting i s s' := by
  have hin : (accepted i s).inputs = s.inputs := microOf_onAccept_inputs i (s.accept i)
  refine (accepted_keepsLasting i s).trans (launch_leads _ (microOf i) (fun _ => ?_) (fun _ hd => ?_) h)
  · exact after_keepsLasting i 0 _
  · exact (keepsLasting_issueAt i _ 0 _).trans (drive_keepsLasting i _ (hin ▸ hx) hd)

/-- On the host's side nothing lasting is written. -/
theorem OnlyHostSide.keepsLasting {s s' : State} (h : OnlyHostSide s s') (i : Instr) : KeepsLasting i s s' :=
  ⟨h.strap, h.devAddr, fun _ => h.initState, fun _ => h.life⟩

/-- Without a reset, an operation offered to an idle block keeps what it keeps. -/
theorem exec_keepsLasting (i : Instr) {s s' : State} (hx : Input.reset ∉ s.inputs) (hr : s.run = .idle)
    (h : exec i s = .next s') : KeepsLasting i s s' := by
  rcases exec_idle_cases i s hr with ⟨r, he⟩ | ⟨-, he⟩
  · obtain rfl := Host.Outcome.next.inj (he.symm.trans h)
    exact (onlyHostSide_respond s s.hostPort r).keepsLasting i
  · exact launch_keepsLasting i hx (he ▸ h)

/-- A step without a reset works on one operation and keeps what that keeps, or touches the host's side alone. -/
theorem step_keepsLasting {s s' : State} (hx : Input.reset ∉ s.inputs) (h : step s = .next s') :
    (∃ i, worksOn s i ∧ KeepsLasting i s s') ∨ OnlyHostSide s s' := by
  cases hr : s.run with
  | running op scr acc =>
    exact .inl ⟨op, .inl ⟨scr, acc, hr⟩, drive_keepsLasting op s.inputs hx (step_running s op scr acc hr ▸ h)⟩
  | idle =>
    rcases step_idle_cases s hr with ⟨rest, hin, -⟩ | ⟨s1, h1, hside⟩ | ⟨i, offers, hi, -, h1⟩
    · exact absurd (hin ▸ List.mem_cons_self) hx
    · exact .inr (Host.Outcome.next.inj (h1.symm.trans h) ▸ hside)
    · have hk := launch_keepsLasting i (s := { s with hostPort := offers }) hx (h1 ▸ h)
      exact .inl ⟨i, hi, hk.strap, hk.devAddr, hk.initState, hk.life⟩

/-- Settles O55: acceptance, the checks after an answer and a transport error are the only writers, and each keeps what
its operation keeps. -/
theorem lastingStateHasFewWriters : Obligations.LastingStateHasFewWriters := by
  refine ⟨fun i s s' hx hr h => ?_, fun s s' hx h => ?_, fun s hr hp => ?_⟩
  · have hk := exec_keepsLasting i hx hr h
    exact ⟨hk.devAddr, hk.initState, hk.life⟩
  · rcases step_keepsLasting hx h with ⟨i, hi, hk⟩ | hside
    · refine ⟨hk.devAddr, hk.strap, fun hne => ?_, fun hne => ?_⟩
      · rwa [← of_not_not fun hni => hne (hk.initState hni)]
      · rwa [← of_not_not fun hni => hne (hk.life hni)]
    · exact ⟨hside.devAddr, hside.strap, fun hne => absurd hside.initState hne, fun hne => absurd hside.life hne⟩
  · rw [step_idle_input s hr hp]
    exact ⟨fun o rest hin => by simp [takeInput, hin, State.enqueue, hp], fun a rest hin => by simp [takeInput, hin],
      fun hin => by simp [takeInput, hin]⟩

/-! ## The invariant (`10_state.md` R21, R24, R48; `43_initialize.md` R231, R242) -/

/-- The `INIT_STATE` the invariant asks for while operation `i` is at request `k`. -/
def InitFits (i : Instr) (k : Nat) (st : InitState) : Prop :=
  if i = .initializeSensor then st = initStateAt k else initSettled st = true

/-- For `INITIALIZE` it is the one of its table. -/
theorem initFits_initializeSensor (k : Nat) (st : InitState) : InitFits .initializeSensor k st ↔ st = initStateAt k := by
  simp [InitFits]

/-- For any other operation it is a settled one, whatever the request. -/
theorem initFits_of_ne {i : Instr} (hi : i ≠ .initializeSensor) (k : Nat) (st : InitState) :
    InitFits i k st ↔ initSettled st = true := by
  simp [InitFits, hi]

/-- Operation `i` runs and has come to request `k` of its table: the part of the invariant that holds before the
request is issued, while it is outstanding, and while its answer is looked at. -/
structure ComesTo (i : Instr) (k : Nat) (s : State) : Prop where
  devAddr : s.devAddr = 0x52#7 ∨ s.devAddr = 0x53#7
  life : s.life = .active
  operands : operandOk i = true
  running : ∃ scr acc, s.run = .running i scr acc
  index : k < (microOf i).table.length
  initState : InitFits i k s.initState

/-- The parts of an idle block's invariant. -/
theorem inv_idle_iff {s : State} (hr : s.run = .idle) :
    Inv s ↔ (s.devAddr = 0x52#7 ∨ s.devAddr = 0x53#7) ∧ s.pending = none ∧ initSettled s.initState = true := by
  simp only [Safety.Inv, hr]

/-- An idle block with nothing outstanding and a settled `INIT_STATE` meets the invariant. -/
theorem inv_of_idle {s : State} (hdev : s.devAddr = 0x52#7 ∨ s.devAddr = 0x53#7) (hr : s.run = .idle)
    (hp : s.pending = none) (hi : initSettled s.initState = true) : Inv s := by
  exact (inv_idle_iff hr).2 ⟨hdev, hp, hi⟩

/-- The invariant of a running operation: it has come to request `SEQ`, and that request is outstanding. -/
theorem inv_running_iff {s : State} {i : Instr} (hr : ∃ scr acc, s.run = .running i scr acc) :
    Inv s ↔ ComesTo i s.seq s ∧
      ∃ q, (microOf i).table[s.seq]? = some q ∧ s.pending = some (toRequest s.devAddr q) := by
  obtain ⟨scr, acc, hrun⟩ := hr
  simp only [Safety.Inv, hrun, runningInv]
  constructor
  · rintro ⟨hdev, hlife, hop, ⟨q, hq, hp⟩, hinit⟩
    exact ⟨⟨hdev, hlife, hop, ⟨scr, acc, hrun⟩, (List.getElem?_eq_some_iff.mp hq).1, hinit⟩, q, hq, hp⟩
  · rintro ⟨hat, hq⟩
    exact ⟨hat.devAddr, hat.life, hat.operands, hq, hat.initState⟩

/-- Issuing the request an operation has come to establishes the invariant. -/
theorem ComesTo.inv_issueAt {i : Instr} {k : Nat} {s : State} (h : ComesTo i k s) :
    Inv (issueAt (microOf i) k s) ∧ ∃ scr acc, (issueAt (microOf i) k s).run = .running i scr acc := by
  have hq : (microOf i).table[k]? = some ((microOf i).table[k]'h.index) := List.getElem?_eq_getElem h.index
  rw [issueAt_some _ _ _ _ hq]
  refine ⟨(inv_running_iff (s := { s with seq := k }.issue _) h.running).2 ⟨?_, _, hq, rfl⟩, h.running⟩
  exact ⟨h.devAddr, h.life, h.operands, h.running, h.index, h.initState⟩

/-- Storing an answer leaves the operation where it is. -/
theorem ComesTo.loadScr {i : Instr} {k : Nat} {s : State} (h : ComesTo i k s) (a : Answer)
    (read : Option (List Byte)) : ComesTo i k ((s.takeAnswer a).loadScr read) := by
  obtain ⟨scr, acc, hrun⟩ := h.running
  refine ⟨by simpa using h.devAddr, by simpa using h.life, h.operands, ?_, h.index, by simpa using h.initState⟩
  cases read with
  | none => exact ⟨scr, acc, by simpa using hrun⟩
  | some bs => exact ⟨bs, acc, State.loadScr_run _ bs i scr acc hrun⟩

/-- Keeping a result leaves the operation where it is. -/
theorem ComesTo.keep {i : Instr} {k : Nat} {s : State} (h : ComesTo i k s) (f : Partial → Partial) :
    ComesTo i k (s.keep f) := by
  obtain ⟨scr, acc, hrun⟩ := h.running
  exact ⟨by simpa using h.devAddr, by simpa using h.life, h.operands, ⟨scr, f acc, State.keep_run s f i scr acc hrun⟩,
    h.index, by simpa using h.initState⟩

/-- An operation goes on to the next request of its table with the `INIT_STATE` of that request. -/
theorem ComesTo.succ {i : Instr} {k : Nat} {s : State} (h : ComesTo i k s) (hk : k + 1 < (microOf i).table.length)
    (hfits : InitFits i (k + 1) s.initState) : ComesTo i (k + 1) s :=
  { h with index := hk, initState := hfits }

/-- While an operation other than `INITIALIZE` runs, `INIT_STATE` is settled. -/
theorem ComesTo.settled {i : Instr} {k : Nat} {s : State} (h : ComesTo i k s) (hi : i ≠ .initializeSensor) :
    initSettled s.initState = true :=
  (initFits_of_ne hi k _).1 h.initState

/-- `INITIALIZE` goes on to the next of its nineteen requests, `INIT_STATE` written as that request asks. -/
theorem ComesTo.setInit_succ {k : Nat} {s : State} (h : ComesTo .initializeSensor k s) (hk : k < 18) {st : InitState}
    (hst : st = initStateAt (k + 1)) : ComesTo .initializeSensor (k + 1) (s.setInit st) :=
  ⟨h.devAddr, h.life, h.operands, h.running, Nat.succ_lt_succ hk, (initFits_initializeSensor _ _).2 hst⟩

/-- An operation that ends with a settled `INIT_STATE` written leaves the invariant. -/
theorem ComesTo.inv_setInit_finish {i : Instr} {k : Nat} {s : State} (h : ComesTo i k s) {st : InitState}
    (hst : initSettled st = true) (r : Response) : Inv ((s.setInit st).finish r) :=
  inv_of_idle h.devAddr rfl rfl hst

/-- The table of `INITIALIZE` moves `INIT_STATE` after requests 2, 4, 9, 11 and 15 only (`43_initialize.md` R231). -/
theorem initStateAt_succ {k : Nat} (h2 : k ≠ 2) (h4 : k ≠ 4) (h9 : k ≠ 9) (h11 : k ≠ 11) (h15 : k ≠ 15) :
    initStateAt k = initStateAt (k + 1) := by
  have hsame : ∀ {n}, k ≠ n → (k + 1 ≤ n ↔ k ≤ n) := by omega
  simp only [initStateAt, hsame h2, hsame h4, hsame h9, hsame h11, hsame h15]

/-- After a good answer `INITIALIZE` comes to the next request with its `INIT_STATE`, or ends with a settled one. -/
theorem ComesTo.initAfter (checkIdle : Bool) {k : Nat} {s : State} (h : ComesTo .initializeSensor k s) :
    (initAfter checkIdle k s).Meets (ComesTo .initializeSensor (k + 1)) Inv := by
  unfold Machine.initAfter
  split
  · unfold afterIdleReadback
    split
    · exact h.inv_setInit_finish rfl _
    · exact h.setInit_succ (by decide) rfl
  · unfold afterPartId
    split
    · exact h.setInit_succ (by decide) rfl
    · exact h.inv_setInit_finish rfl _
  · exact h.setInit_succ (by decide) rfl
  · exact h.setInit_succ (by decide) rfl
  · unfold afterStandardReadback
    split
    · exact h.setInit_succ (by decide) rfl
    · exact h.inv_setInit_finish rfl _
  · exact h.inv_setInit_finish rfl _
  case h_7 h2 h4 h9 h11 h15 h18 =>
    have hk : k < 19 := h.index
    have hst := (initFits_initializeSensor k _).1 h.initState
    have hlast : k < 18 := Nat.lt_of_le_of_ne (Nat.le_of_lt_succ hk) h18
    exact h.succ (Nat.succ_lt_succ hlast)
      ((initFits_initializeSensor _ _).2 (hst.trans (initStateAt_succ h2 h4 h9 h11 h15)))

/-- A micro-sequence that has come to a request is that of `INITIALIZE` or a straight one. -/
theorem ComesTo.micro_cases {i : Instr} {k : Nat} {s : State} (h : ComesTo i k s) :
    i = .initializeSensor ∨ (i ≠ .initializeSensor ∧ (microOf i).Straight) := by
  rcases microOf_cases i with hi | rfl | ⟨-, hm⟩ | hm
  · exact .inl hi
  · exact absurd h.index (Nat.not_lt_zero k)
  · exact absurd h.index (by simp [hm, microNone])
  · exact .inr hm

/-- After a good answer an operation comes to its next request, or has ended with the invariant. -/
theorem ComesTo.after {i : Instr} {k : Nat} {s : State} (h : ComesTo i k s) :
    ((microOf i).after k s).Meets (ComesTo i (k + 1)) Inv := by
  rcases h.micro_cases with rfl | ⟨hi, hm⟩
  · exact h.initAfter _
  · rcases hm.after k s with ⟨hk, f, he⟩ | ⟨v, he⟩ <;> rw [he]
    · exact (h.keep f).succ hk ((initFits_of_ne hi _ _).2 ((h.keep f).settled hi))
    · exact inv_of_idle h.devAddr rfl rfl (h.settled hi)

/-- A transport error ends an operation with the invariant. -/
theorem ComesTo.onErr {i : Instr} {k : Nat} {s : State} (h : ComesTo i k s) (t : BusErr) :
    ((microOf i).onErr k t s).Meets (ComesTo i (k + 1)) Inv := by
  rcases h.micro_cases with rfl | ⟨hi, hm⟩
  · change (initOnErr k t s).Meets _ _
    unfold initOnErr
    split <;> exact h.inv_setInit_finish rfl _
  · rw [hm.onErr]
    exact inv_of_idle h.devAddr rfl rfl (h.settled hi)

/-- The invariant, with operation `i` running. -/
def InvRunning (i : Instr) (s : State) : Prop := Inv s ∧ ∃ scr acc, s.run = .running i scr acc

/-- A turn of a running operation keeps the invariant. -/
theorem takeTurn_inv (i : Instr) (a : Answer) {s : State} (hs : InvRunning i s) :
    (∀ s', takeTurn (microOf i) a s = .goesOn s' → InvRunning i s') ∧
    (∀ s', takeTurn (microOf i) a s = .ended s' → Inv s') := by
  obtain ⟨hat, -⟩ := (inv_running_iff hs.2).1 hs.1
  obtain ⟨hgo, hend⟩ := takeTurn_leads (ComesTo i (s.seq + 1)) Inv (microOf i) a s
    (fun read => (hat.loadScr a read).after)
    (fun t => (State.loadScr_none (s.takeAnswer a) ▸ hat.loadScr a none).onErr t)
  refine ⟨fun s' h => ?_, hend⟩
  rcases hgo s' h with rfl | ⟨s1, h1, rfl⟩
  · exact hs
  · exact h1.inv_issueAt

/-- Reset establishes the invariant (`10_state.md` R48). -/
theorem inv_onReset (s : State) : Inv s.onReset :=
  inv_of_idle (by cases h : s.strap <;> simp [h, deviceAddress]) rfl rfl rfl

/-- Driving a running operation keeps the invariant. -/
theorem drive_inv (i : Instr) (xs : List Input) {s s' : State} (hs : InvRunning i s)
    (h : drive (microOf i) xs s = .next s') : Inv s' :=
  drive_leads (InvRunning i) Inv (microOf i) xs
    (hHeld := fun _ hs => hs.1)
    (hOffer := fun _ _ hs => hs)
    (hReset := fun _ s1 rest _ => inv_onReset { s1 with inputs := rest })
    (hGoesOn := fun a _ s2 hs ht => (takeTurn_inv i a hs).1 s2 ht)
    (hEnded := fun a _ s2 _ hs ht => (takeTurn_inv i a hs).2 s2 ht)
    hs h

/-- Acceptance leaves the operation running. -/
theorem accepted_run (i : Instr) (s : State) : (accepted i s).run = .running i [] Partial.none := by
  cases i <;> rfl

/-- Acceptance leaves the `INIT_STATE` the operation begins with: Start for `INITIALIZE`, else the settled one. -/
theorem accepted_initFits (i : Instr) {s : State} (hs : initSettled s.initState = true) :
    InitFits i 0 (accepted i s).initState := by
  by_cases hi : i = .initializeSensor
  · subst hi; exact (initFits_initializeSensor 0 _).2 rfl
  · rw [initFits_of_ne hi, (accepted_keepsLasting i s).initState hi]; exact hs

/-- An accepted operation with requests to make has come to request 0. -/
theorem accepted_comesTo {i : Instr} {s : State} (hdev : s.devAddr = 0x52#7 ∨ s.devAddr = 0x53#7)
    (hinit : initSettled s.initState = true) (hacc : Accepts i s) (ht : (microOf i).table ≠ []) :
    ComesTo i 0 (accepted i s) where
  devAddr := (accepted_keepsLasting i s).devAddr ▸ hdev
  life := ((accepted_keepsLasting i s).life fun hi => ht (hi ▸ rfl)).trans hacc.life
  operands := hacc.operands
  running := ⟨_, _, accepted_run i s⟩
  index := List.length_pos_iff.2 ht
  initState := accepted_initFits i hinit

/-- The only operation accepted without a request to make is `RELEASE`. -/
theorem eq_release_of_table_nil {i : Instr} (hp : i.isProtocol = true) (ht : (microOf i).table = []) :
    i = .release := by
  rcases microOf_cases i with rfl | hi | ⟨hnp, -⟩ | ⟨-, hm⟩
  · exact absurd ht (by decide)
  · exact hi
  · exact absurd (hp.symm.trans hnp) (by decide)
  · exact absurd ht hm.requests

/-- Launching an accepted operation keeps the invariant: `RELEASE` ends at once, any other issues request 0. -/
theorem launch_inv {i : Instr} {s s' : State} (hdev : s.devAddr = 0x52#7 ∨ s.devAddr = 0x53#7)
    (hinit : initSettled s.initState = true) (hacc : Accepts i s)
    (h : launch (microOf i) (accepted i s) = .next s') : Inv s' := by
  refine launch_leads Inv (microOf i) (fun ht => ?_) (fun ht hd => ?_) h
  · obtain rfl := eq_release_of_table_nil hacc.protocol ht
    exact inv_of_idle hdev rfl rfl hinit
  · exact drive_inv i _ (accepted_comesTo hdev hinit hacc ht).inv_issueAt hd

/-- What touches the host's side alone keeps the invariant of an idle block. -/
theorem OnlyHostSide.inv {s s' : State} (h : OnlyHostSide s s') (hr : s.run = .idle) (hs : Inv s) : Inv s' := by
  rw [inv_idle_iff hr] at hs
  rwa [inv_idle_iff (h.run.trans hr), h.devAddr, h.pending, h.initState]

/-- Settles O56: a running operation goes from request to request of its table; an idle block accepts one with the
invariant, or stays at rest. -/
theorem stepKeepsInvariant : Obligations.StepKeepsInvariant := fun s s' hs h => by
  cases hr : s.run with
  | running op scr acc => exact drive_inv op s.inputs ⟨hs, scr, acc, hr⟩ (step_running s op scr acc hr ▸ h)
  | idle =>
    rcases step_idle_cases s hr with ⟨rest, -, h1⟩ | ⟨s1, h1, hside⟩ | ⟨i, offers, -, hacc, h1⟩
    · exact Host.Outcome.next.inj (h1.symm.trans h) ▸ inv_onReset _
    · exact Host.Outcome.next.inj (h1.symm.trans h) ▸ hside.inv hr hs
    · obtain ⟨hdev, -, hinit⟩ := (inv_idle_iff hr).1 hs
      exact launch_inv (s := { s with hostPort := offers }) hdev hinit hacc (h1 ▸ h)

end Sys2Proof.Machine

/-! PROOFS. The statements of `20_memory.md`: the form of every request, and when a step stops. -/

namespace Sys2Proof.Machine

open Sys2Proof.Safety

/-! ## The form of the requests (`20_memory.md` R50, R51, `60_exceptions.md` R292) -/

/-- A primitive whose request is proper: at least one byte written or read, or one of the three delays. -/
def MicroReq.proper : MicroReq → Bool
  | .memWrite _ bytes => decide (1 ≤ bytes.length)
  | .memRead _ n => decide (1 ≤ n)
  | .delayMs n => n = 10 || n = 50 || n = 150

/-- The request of a proper primitive is proper for the device it is sent to. -/
theorem MicroReq.properRequest {q : MicroReq} (hq : q.proper = true) (dev : Addr7) :
    properRequest dev (toRequest dev q) = true := by
  cases q with
  | memWrite reg bytes => simpa [toRequest, Safety.properRequest, proper, Nat.succ_le_succ_iff] using hq
  | memRead reg n => simpa [toRequest, Safety.properRequest, proper] using hq
  | delayMs n => exact hq

/-- Every table holds proper primitives only. Two operations take the size of their one request from an operand; it is
proper exactly when the operand is in its domain. -/
theorem microOf_table_proper (i : Instr) :
    (microOf i).table.all MicroReq.proper = true ∨ (operandOk i = false ∧ (microOf i).table.length = 1) := by
  cases i with
  | writeCommand bytes =>
    cases bytes with
    | nil => exact .inr ⟨rfl, rfl⟩
    | cons b bs => exact .inl (by simp [microOf, microWriteCommand, straightLine, writeReg, MicroReq.proper])
  | readRegister reg n =>
    by_cases hn : 1 ≤ n.toNat
    · exact .inl (by simp [microOf, microReadRegister, straightLine, MicroReq.proper, hn])
    · exact .inr ⟨by simp [operandOk, hn], rfl⟩
  | _ => exact .inl rfl

/-- The request an operation is at is proper if its operands are in their domain, and after the first request in any
case. -/
theorem microOf_request_proper {i : Instr} {k : Nat} {q : MicroReq} (hk : operandOk i = true ∨ 1 ≤ k)
    (hq : (microOf i).table[k]? = some q) : q.proper = true := by
  rcases microOf_table_proper i with hall | ⟨hbad, hlen⟩
  · exact List.all_eq_true.mp hall q (List.mem_of_getElem? hq)
  · have hlt : k < (microOf i).table.length := (List.getElem?_eq_some_iff.mp hq).1
    rcases hk with hok | hk
    · simp [hok] at hbad
    · omega

/-- From `s` to `s'` the device address stays, and the trace is extended by events whose requests are proper for it. -/
structure AddsProper (s s' : State) : Prop where
  devAddr : s'.devAddr = s.devAddr
  events : ∃ es : List Event, s'.trace = s.trace ++ es ∧ ∀ e ∈ es, properEvent s.devAddr e = true

/-- Nothing new on the ports is proper. -/
theorem AddsProper.of_trace_eq {s s' : State} (hdev : s'.devAddr = s.devAddr) (h : s'.trace = s.trace) :
    AddsProper s s' :=
  ⟨hdev, [], by simp [h], by simp⟩

/-- One proper event. -/
theorem AddsProper.of_append {s s' : State} {e : Event} (hdev : s'.devAddr = s.devAddr)
    (h : s'.trace = s.trace ++ [e]) (he : properEvent s.devAddr e = true) : AddsProper s s' :=
  ⟨hdev, [e], h, by simp [he]⟩

/-- Proper extensions compose. -/
theorem AddsProper.trans {s s1 s2 : State} (h1 : AddsProper s s1) (h2 : AddsProper s1 s2) : AddsProper s s2 := by
  obtain ⟨es1, ht1, hp1⟩ := h1.events
  obtain ⟨es2, ht2, hp2⟩ := h2.events
  rw [h1.devAddr] at hp2
  refine ⟨h2.devAddr.trans h1.devAddr, es1 ++ es2, by rw [ht2, ht1, List.append_assoc], fun e he => ?_⟩
  exact (List.mem_append.mp he).elim (hp1 e) (hp2 e)

/-- What touches the host's side alone issues no request. -/
theorem OnlyHostSide.addsProper {s s' : State} (h : OnlyHostSide s s') : AddsProper s s' := by
  rcases h.trace with ht | ⟨r, ht⟩
  · exact .of_trace_eq h.devAddr ht
  · exact .of_append h.devAddr ht rfl

/-- Issuing a proper request. -/
theorem issueAt_addsProper {i : Instr} {k : Nat} (hk : operandOk i = true ∨ 1 ≤ k) (s : State) :
    AddsProper s (issueAt (microOf i) k s) := by
  cases hq : (microOf i).table[k]? with
  | none => simpa [issueAt, hq] using AddsProper.of_trace_eq (s := s) (s' := { s with seq := k }) rfl rfl
  | some q =>
    rw [issueAt_some _ _ _ _ hq]
    exact .of_append rfl rfl (MicroReq.properRequest (microOf_request_proper hk hq) s.devAddr)

/-- Checks that send at most a response and keep what operation `i` keeps add no request. -/
theorem Progress.GoesOnOrResponds.addsProper {i : Instr} {s : State} {p : Progress} (hp : p.GoesOnOrResponds s)
    (hk : p.KeepsLasting i s) : p.Meets (AddsProper s) (AddsProper s) := by
  cases p with
  | next s1 => exact .of_trace_eq hk.devAddr hp.2
  | done s1 =>
    obtain ⟨-, r, ht⟩ := hp
    exact .of_append hk.devAddr ht rfl

/-- The checks after a good answer issue nothing themselves. -/
theorem after_addsProper (i : Instr) (k : Nat) (s : State) :
    ((microOf i).after k s).Meets (AddsProper s) (AddsProper s) :=
  ((microOf_respondsAtEnd i).after k s).addsProper (after_keepsLasting i k s)

/-- A transport error issues nothing. -/
theorem onErr_addsProper (i : Instr) (k : Nat) (t : BusErr) (s : State) :
    ((microOf i).onErr k t s).Meets (AddsProper s) (AddsProper s) :=
  ((microOf_respondsAtEnd i).onErr k t s).addsProper (onErr_keepsLasting i k t s)

/-- What follows a proper extension extends the whole properly. -/
theorem AddsProper.meets {s s1 : State} (h1 : AddsProper s s1) {p : Progress}
    (hp : p.Meets (AddsProper s1) (AddsProper s1)) : p.Meets (AddsProper s) (AddsProper s) := by
  cases p <;> exact h1.trans hp

/-- A turn of a running operation issues at most one request, not the first of its table, and it is proper. -/
theorem takeTurn_addsProper (i : Instr) (a : Answer) (s : State) :
    (∀ s', takeTurn (microOf i) a s = .goesOn s' → AddsProper s s') ∧
    (∀ s', takeTurn (microOf i) a s = .ended s' → AddsProper s s') := by
  have hanswered : ∀ read, AddsProper s ((s.takeAnswer a).loadScr read) := fun read =>
    .of_append (e := .answered a) (by simp) (by simp) rfl
  obtain ⟨hgo, hend⟩ := takeTurn_leads (AddsProper s) (AddsProper s) (microOf i) a s
    (fun read => (hanswered read).meets (after_addsProper i _ _))
    (fun t => (State.loadScr_none (s.takeAnswer a) ▸ hanswered none).meets (onErr_addsProper i _ t _))
  refine ⟨fun s' h => ?_, hend⟩
  rcases hgo s' h with rfl | ⟨s1, h1, rfl⟩
  · exact .of_trace_eq rfl rfl
  · exact h1.trans (issueAt_addsProper (.inr (Nat.le_add_left 1 s.seq)) s1)

/-- Without a reset, driving a running operation issues proper requests only. -/
theorem drive_addsProper (i : Instr) (xs : List Input) {s s' : State} (hx : Input.reset ∉ xs)
    (h : drive (microOf i) xs s = .next s') : AddsProper s s' :=
  drive_leads (AddsProper s) (AddsProper s) (microOf i) xs
    (hHeld := fun _ hs => ⟨hs.devAddr, hs.events⟩)
    (hOffer := fun _ _ hs => ⟨hs.devAddr, hs.events⟩)
    (hReset := fun hm => absurd hm hx)
    (hGoesOn := fun a s1 s2 hs ht => hs.trans ((takeTurn_addsProper i a s1).1 s2 ht))
    (hEnded := fun a s1 s2 _ hs ht =>
      have h2 := hs.trans ((takeTurn_addsProper i a s1).2 s2 ht)
      ⟨h2.devAddr, h2.events⟩)
    (.of_trace_eq rfl rfl) h

/-- Acceptance leaves the trace. -/
theorem accepted_trace (i : Instr) (s : State) : (accepted i s).trace = s.trace :=
  ((microOf_respondsAtEnd i).onAccept (s.accept i)).2

/-- Without a reset, an accepted operation issues proper requests only: its operands are in their domain. -/
theorem launch_addsProper {i : Instr} {s s' : State} (hacc : Accepts i s) (hx : Input.reset ∉ s.inputs)
    (h : launch (microOf i) (accepted i s) = .next s') : AddsProper s s' := by
  have hin : (accepted i s).inputs = s.inputs := microOf_onAccept_inputs i (s.accept i)
  have haccept : AddsProper s (accepted i s) := .of_trace_eq (accepted_keepsLasting i s).devAddr (accepted_trace i s)
  refine haccept.trans (launch_leads _ (microOf i) (fun _ => ?_) (fun _ hd => ?_) h)
  · exact after_addsProper i 0 _
  · exact (issueAt_addsProper (.inl hacc.operands) _).trans (drive_addsProper i _ (hin ▸ hx) hd)

/-- Settles O59: a running operation issues requests after the first of its table, which are proper whatever its
operands; the first is issued on acceptance, which checks them. -/
theorem everyRequestIsProper : Obligations.EveryRequestIsProper := fun s s' hx h => by
  suffices hadds : AddsProper s s' from hadds.events
  cases hr : s.run with
  | running op scr acc => exact drive_addsProper op s.inputs hx (step_running s op scr acc hr ▸ h)
  | idle =>
    rcases step_idle_cases s hr with ⟨rest, hin, -⟩ | ⟨s1, h1, hside⟩ | ⟨i, offers, -, hacc, h1⟩
    · exact absurd (hin ▸ List.mem_cons_self) hx
    · exact Host.Outcome.next.inj (h1.symm.trans h) ▸ hside.addsProper
    · have hadds := launch_addsProper hacc hx (h1 ▸ h)
      exact ⟨hadds.devAddr, hadds.events⟩

/-! ## The inputs still to come (log entry 4): nothing an operation does looks at them -/

/-- The same state with other inputs still to come. -/
def State.withInputs (s : State) (ys : List Input) : State := { s with inputs := ys }

/-- The same progress with other inputs still to come. -/
def Progress.withInputs (ys : List Input) : Progress → Progress
  | .next s => .next (s.withInputs ys)
  | .done s => .done (s.withInputs ys)

/-- The same turn with other inputs still to come. -/
def Turn.withInputs (ys : List Input) : Turn → Turn
  | .goesOn s => .goesOn (s.withInputs ys)
  | .ended s => .ended (s.withInputs ys)
  | .broken => .broken

/-- Taking an answer does not look at the inputs. -/
@[simp] theorem State.withInputs_takeAnswer (s : State) (a : Answer) (ys : List Input) :
    (s.withInputs ys).takeAnswer a = (s.takeAnswer a).withInputs ys := rfl

/-- Storing an answer does not look at the inputs. -/
@[simp] theorem State.withInputs_loadScr (s : State) (read : Option (List Byte)) (ys : List Input) :
    (s.withInputs ys).loadScr read = (s.loadScr read).withInputs ys := by
  cases read <;> cases hr : s.run <;> simp [State.loadScr, State.withInputs, hr]

/-- Keeping a result does not look at the inputs. -/
@[simp] theorem State.withInputs_keep (s : State) (f : Partial → Partial) (ys : List Input) :
    (s.withInputs ys).keep f = (s.keep f).withInputs ys := by
  cases hr : s.run <;> simp [State.keep, State.withInputs, hr]

/-- A micro-sequence whose checks do not look at the inputs still to come. -/
structure MicroOp.IgnoresInputs (m : MicroOp) : Prop where
  after : ∀ (k : Nat) (s : State) (ys : List Input), m.after k (s.withInputs ys) = (m.after k s).withInputs ys
  onErr : ∀ (k : Nat) (t : BusErr) (s : State) (ys : List Input),
    m.onErr k t (s.withInputs ys) = (m.onErr k t s).withInputs ys

/-- A micro-sequence without checks ignores the inputs if what it keeps and its result do. -/
theorem straightLine_ignoresInputs (table : List MicroReq) (between : Nat → State → State) (result : State → Value)
    (hb : ∀ k s ys, between k (s.withInputs ys) = (between k s).withInputs ys)
    (hv : ∀ s ys, result (s.withInputs ys) = result s) : (straightLine table between result).IgnoresInputs where
  after k s ys := by
    simp only [straightLine, hb, hv]
    split <;> rfl
  onErr _ _ _ _ := rfl

/-- The checks of `INITIALIZE` look at `SCR` alone (`43_initialize.md` R231). -/
theorem microInitialize_ignoresInputs (checkIdle : Bool) : (microInitialize checkIdle).IgnoresInputs where
  after k s ys := by
    change initAfter checkIdle k (s.withInputs ys) = (initAfter checkIdle k s).withInputs ys
    unfold initAfter
    split
    · rw [afterIdleReadback, afterIdleReadback, apply_ite (Progress.withInputs ys)]; rfl
    · rw [afterPartId, afterPartId, apply_ite (Progress.withInputs ys)]; rfl
    · rfl
    · rfl
    · rw [afterStandardReadback, afterStandardReadback, apply_ite (Progress.withInputs ys)]; rfl
    · rfl
    · rfl
  onErr k t s ys := by
    change initOnErr k t (s.withInputs ys) = (initOnErr k t s).withInputs ys
    unfold initOnErr
    split <;> rfl

/-- What `GET_MEASUREMENTS` keeps does not depend on the inputs. -/
theorem keepMeasurement_withInputs (k : Nat) (s : State) (ys : List Input) :
    keepMeasurement k (s.withInputs ys) = (keepMeasurement k s).withInputs ys := by
  unfold keepMeasurement
  split <;> exact s.withInputs_keep _ ys

/-- No operation's checks look at the inputs still to come. -/
theorem microOf_ignoresInputs (i : Instr) : (microOf i).IgnoresInputs := by
  cases i with
  | initializeSensor => exact microInitialize_ignoresInputs _
  | getTempRhComp => exact straightLine_ignoresInputs _ _ _ (fun _ s ys => s.withInputs_keep _ ys) fun _ _ => rfl
  | getMeasurements => exact straightLine_ignoresInputs _ _ _ keepMeasurement_withInputs fun _ _ => rfl
  | writeCommand | readRegister | setOperationMode | getPartId | getFirmwareVersion | clearCommand | getEco2 | getTvoc
  | getAirqualityIndex | getEtoh | getRawResistance | getStatus | getGroupData | setTempRhComp | configInterruptPin =>
    exact straightLine_ignoresInputs _ _ _ (fun _ _ _ => rfl) fun _ _ => rfl
  | _ => exact ⟨fun _ _ _ => rfl, fun _ _ _ _ => rfl⟩

/-- Acceptance does not look at the inputs. -/
theorem accepted_withInputs (i : Instr) (s : State) (ys : List Input) :
    accepted i (s.withInputs ys) = (accepted i s).withInputs ys := by
  cases i <;> rfl

/-- Issuing a request does not look at the inputs. -/
theorem issueAt_withInputs (m : MicroOp) (k : Nat) (s : State) (ys : List Input) :
    issueAt m k (s.withInputs ys) = (issueAt m k s).withInputs ys := by
  unfold issueAt
  split <;> rfl

/-- Going on or ending does not look at the inputs. -/
theorem proceed_withInputs (m : MicroOp) (k : Nat) (p : Progress) (ys : List Input) :
    proceed m k (p.withInputs ys) = (proceed m k p).withInputs ys := by
  cases p with
  | next s => exact congrArg Turn.goesOn (issueAt_withInputs m (k + 1) s ys)
  | done s => rfl

/-- A turn does not look at the inputs. -/
theorem MicroOp.IgnoresInputs.takeTurn {m : MicroOp} (hm : m.IgnoresInputs) (a : Answer) (s : State)
    (ys : List Input) : takeTurn m a (s.withInputs ys) = (takeTurn m a s).withInputs ys := by
  have hpending : (s.withInputs ys).pending = s.pending := rfl
  have hseq : (s.withInputs ys).seq = s.seq := rfl
  simp only [Machine.takeTurn, hpending, hseq, State.withInputs_takeAnswer, State.withInputs_loadScr, hm.after,
    hm.onErr, proceed_withInputs]
  split <;> rfl

/-- Driving looks at the inputs it is given, not at those the state holds. -/
theorem MicroOp.IgnoresInputs.drive {m : MicroOp} (hm : m.IgnoresInputs) (xs : List Input) (s : State)
    (ys : List Input) : drive m xs (s.withInputs ys) = drive m xs s := by
  induction xs generalizing s with
  | nil => rfl
  | cons x rest ih =>
    cases x with
    | offer o => exact ih (s.enqueue o)
    | reset => rfl
    | answer a =>
      simp only [Machine.drive, hm.takeTurn]
      cases Machine.takeTurn m a s with
      | goesOn s1 => exact ih s1
      | ended s1 => rfl
      | broken => rfl

/-- A step that goes on with an operation drives it from the same state, whatever the inputs. -/
theorem step_running_withInputs {s : State} {op : Instr} {scr : List Byte} {acc : Partial}
    (hr : s.run = .running op scr acc) (xs : List Input) : step (s.withInputs xs) = drive (microOf op) xs s :=
  (step_running (s.withInputs xs) op scr acc hr).trans ((microOf_ignoresInputs op).drive xs s xs)

/-! ## When a step stops (`20_memory.md` R50, R51; log entries 6, 7, 24) -/

/-- An answer has a shape its request never gets exactly if it misfits the outstanding request. -/
theorem receive_violation_iff (p : Option Request) (a : Answer) : receive p a = .violation ↔ misfits p a := by
  cases p with
  | none => simp [misfits]
  | some q =>
    cases q with
    | busWrite dev bytes => cases a <;> simp [receive, misfits]
    | busWriteRead dev wbytes n => cases a <;> simp [receive, misfits]
    | delayMs n => cases a <;> simp [receive, misfits]

/-- An answer on a port without a request is not taken (log entry 7). -/
theorem receive_unasked {p : Option Request} {a : Answer} (h : unasked p a) : receive p a = .unsolicited := by
  cases p with
  | none => rfl
  | some q =>
    cases q with
    | busWrite dev bytes => simp only [unasked] at h; simp [h, receive]
    | busWriteRead dev wbytes n => simp only [unasked] at h; simp [h, receive]
    | delayMs n => cases a <;> simp_all [unasked, receive]

/-- The only turn that breaks is one with a misfitting answer. -/
theorem takeTurn_broken_iff (m : MicroOp) (a : Answer) (s : State) :
    takeTurn m a s = .broken ↔ misfits s.pending a := by
  have hproceed : ∀ p, proceed m s.seq p ≠ .broken := fun p => by cases p <;> simp
  rw [← receive_violation_iff]
  rcases takeTurn_cases m a s with ⟨read, hrec, h⟩ | ⟨t, hrec, h⟩ | ⟨hrec, h⟩ | ⟨hrec, h⟩ <;> simp [hrec, h, hproceed]

/-- An answer nobody asked for changes nothing. -/
theorem takeTurn_unasked (m : MicroOp) {a : Answer} {s : State} (h : unasked s.pending a) :
    takeTurn m a s = .goesOn s := by
  simp [takeTurn, receive_unasked h]

/-- Driving with one answer stops exactly if the answer misfits. -/
theorem drive_one_answer_fault_iff (m : MicroOp) (a : Answer) (s : State) :
    drive m [.answer a] s = .fault .transportContract ↔ misfits s.pending a := by
  rw [← takeTurn_broken_iff m]
  cases h : takeTurn m a s <;> simp [drive, h]

/-- A drive that stops takes its inputs up to a misfitting answer, before which the operation is still running. -/
theorem drive_fault {m : MicroOp} (hm : m.RespondsAtEnd) {xs : List Input} {s : State} {r : Fault}
    (hb : s.busy = true) (h : drive m xs s = .fault r) :
    ∃ pre a rest s1, xs = pre ++ .answer a :: rest ∧ drive m pre s = .next s1 ∧ s1.busy = true ∧
      misfits s1.pending a := by
  induction xs generalizing s with
  | nil => simp at h
  | cons x xs ih =>
    cases x with
    | offer o =>
      obtain ⟨pre, a, rest, s1, rfl, hd, hend⟩ := ih (s := s.enqueue o) hb h
      exact ⟨.offer o :: pre, a, rest, s1, rfl, hd, hend⟩
    | reset => simp at h
    | answer a =>
      cases ht : takeTurn m a s with
      | goesOn s2 =>
        have hb2 : s2.busy = true := (((takeTurn_respondsAtEnd m hm a s).1 s2 ht).1).trans hb
        obtain ⟨pre, b, rest, s1, rfl, hd, hend⟩ := ih hb2 (drive_goesOn m a xs s s2 ht ▸ h)
        exact ⟨.answer a :: pre, b, rest, s1, rfl, (drive_goesOn m a pre s s2 ht).trans hd, hend⟩
      | ended s2 => simp [drive_ended m a xs s s2 ht] at h
      | broken => exact ⟨[], a, xs, { s with inputs := [] }, rfl, rfl, hb, (takeTurn_broken_iff m a s).1 ht⟩

/-- A launched operation without requests does not stop. -/
theorem launch_empty (m : MicroOp) (s : State) (ht : m.table = []) : ∃ s', launch m s = .next s' := by
  cases ha : m.after 0 s <;> simp [launch, ht, ha]

/-- Launching never refuses. -/
theorem launch_ne_refused (m : MicroOp) (s : State) (r : Refusal) : launch m s ≠ .refused r := by
  cases ht : m.table with
  | nil =>
    obtain ⟨s', h⟩ := launch_empty m s ht
    simp [h]
  | cons q qs => exact launch_table m q qs s ht ▸ drive_ne_refused m _ _ r

/-- No step is refused by the model. -/
theorem step_ne_refused (s : State) (r : Refusal) : step s ≠ .refused r := by
  cases hr : s.run with
  | running op scr acc => exact step_running s op scr acc hr ▸ drive_ne_refused _ _ _ r
  | idle =>
    rcases step_idle_cases s hr with ⟨rest, -, h⟩ | ⟨s', h, -⟩ | ⟨i, offers, -, -, h⟩
    · simp [h]
    · simp [h]
    · exact h ▸ launch_ne_refused _ _ r

/-- What an idle block accepts does not depend on the inputs, nor on what else is offered. -/
theorem Accepts.of_life_eq {i : Instr} {s s' : State} (h : Accepts i s) (hl : s'.life = s.life) : Accepts i s' :=
  ⟨h.protocol, hl.trans h.life, h.operands⟩

/-- A step of an idle block whose oldest offer it accepts launches that operation. -/
theorem Accepts.step {i : Instr} {s : State} {o : List Byte} {offers : List (List Byte)} (hacc : Accepts i s)
    (hr : s.run = .idle) (hp : s.hostPort = o :: offers) (hd : decode o = .instr i) :
    step s = launch (microOf i) (accepted i { s with hostPort := offers }) := by
  rw [step_idle_operation s o offers i hr hp hd]
  rcases exec_cases i { s with hostPort := offers } with ⟨-, he⟩ | ⟨hcodec, -⟩
  · exact he.trans (protocolOp_accepted i _ _ hr hacc.life hacc.operands)
  · simp [hacc.protocol] at hcodec

/-- A step that launches an operation with requests drives it from its first request, whatever the inputs. -/
theorem Accepts.step_withInputs {i : Instr} {s : State} {o : List Byte} {offers : List (List Byte)}
    (hacc : Accepts i s) (hr : s.run = .idle) (hp : s.hostPort = o :: offers) (hd : decode o = .instr i)
    (ht : (microOf i).table ≠ []) (xs : List Input) : Machine.step (s.withInputs xs) =
      drive (microOf i) xs (issueAt (microOf i) 0 (accepted i { s with hostPort := offers })) := by
  obtain ⟨q, qs, hq⟩ := List.exists_cons_of_ne_nil ht
  have hstate : accepted i { s.withInputs xs with hostPort := offers } =
      (accepted i { s with hostPort := offers }).withInputs xs := accepted_withInputs i { s with hostPort := offers } xs
  rw [(hacc.of_life_eq (s' := s.withInputs xs) rfl).step hr hp hd, launch_table _ q qs _ hq, hstate,
    issueAt_withInputs]
  exact (microOf_ignoresInputs i).drive xs _ xs

/-- A step that stops drives an operation, and with other inputs the step drives the same operation from the same
state. -/
theorem step_fault_drives {s : State} {r : Fault} (h : step s = .fault r) :
    ∃ i s0, s0.busy = true ∧ ∀ xs, step (s.withInputs xs) = drive (microOf i) xs s0 := by
  by_cases hb : s.busy = true
  · obtain ⟨op, scr, acc, hr⟩ := (State.busy_eq_true s).1 hb
    exact ⟨op, s, hb, step_running_withInputs hr⟩
  · have hr : s.run = .idle := (State.busy_eq_false s).1 (by simpa using hb)
    rcases step_idle_cases s hr with ⟨rest, -, h1⟩ | ⟨s', h1, -⟩ | ⟨i, offers, hw, hacc, h1⟩
    · simp [h1] at h
    · simp [h1] at h
    · obtain ⟨-, o, rest, hp, hd⟩ := hw.resolve_left (by simp [hr])
      have ht : (microOf i).table ≠ [] := fun ht => by
        obtain ⟨s', hs'⟩ := launch_empty (microOf i) (accepted i { s with hostPort := offers }) ht
        simp [h1, hs'] at h
      refine ⟨i, _, ?_, (hacc.of_life_eq (s' := s) rfl).step_withInputs hr hp hd ht⟩
      exact (issueAt_silent _ _ _).1.trans ((State.busy_eq_true _).2 ⟨_, _, _, accepted_run i _⟩)

/-- Settles O60: only driving can stop, and it stops exactly at a misfitting answer; up to it, the step is the same
without that answer and the inputs after it. -/
theorem stepsStopOnlyOnABrokenTransport : Obligations.StepsStopOnlyOnABrokenTransport := by
  refine ⟨step_ne_refused, fun s r h => ?_, fun s a hb hin => ?_, fun s a rest hb hin => ?_⟩
  · obtain ⟨i, s0, hb, hdrives⟩ := step_fault_drives h
    obtain ⟨pre, a, rest, s1, hsplit, hd, hend⟩ :=
      drive_fault (microOf_respondsAtEnd i) hb ((hdrives s.inputs).symm.trans h)
    exact ⟨pre, a, rest, s1, hsplit, (hdrives pre).trans hd, hend⟩
  · obtain ⟨op, scr, acc, hr⟩ := (State.busy_eq_true s).1 hb
    rw [step_running s op scr acc hr, hin]
    exact drive_one_answer_fault_iff _ a s
  · obtain ⟨op, scr, acc, hr⟩ := (State.busy_eq_true s).1 hb
    rw [step_running s op scr acc hr, hin]
    refine ⟨fun hm => drive_broken _ a rest s ((takeTurn_broken_iff _ a s).2 hm), fun hu => ?_⟩
    exact (drive_goesOn _ a rest s s (takeTurn_unasked _ hu)).trans (step_running_withInputs hr rest).symm

end Sys2Proof.Machine

/-! PROOFS. The statements of `30_encoding.md`: the host port's encoding in both directions, the refusal of codes
outside the map, the bytes of a response, an offered table word, and the builder chains of R103. -/

namespace Sys2Proof

/-! ## The formats of R81: the operands an operation is read from are its own operand bytes -/

/-- What a format reads after code `op` is a well-formed operation, and the bytes read are that operation's. -/
def ReadsBack (op : Byte) (read : List Byte → Decoded) : Prop :=
  ∀ (args : List Byte) (i : Instr), read args = .instr i → i.wellFormed = true ∧ encode i = op :: args

theorem formatN_readsBack {op : Byte} {j : Instr} (hj : j.wellFormed = true ∧ encode j = [op]) :
    ReadsBack op (formatN op j) := by
  intro args i h
  cases args with
  | nil =>
    cases h
    exact hj
  | cons a rest => simp [formatN] at h

theorem formatB_readsBack {op : Byte} {f : Byte → Instr}
    (hf : ∀ a, (f a).wellFormed = true ∧ encode (f a) = [op, a]) : ReadsBack op (formatB op f) := by
  intro args i h
  unfold formatB at h
  split at h <;> cases h
  exact hf _

theorem formatBB_readsBack {op : Byte} {f : Byte → Byte → Instr}
    (hf : ∀ a b, (f a b).wellFormed = true ∧ encode (f a b) = [op, a, b]) : ReadsBack op (formatBB op f) := by
  intro args i h
  unfold formatBB at h
  split at h <;> cases h
  exact hf _ _

theorem formatH_readsBack {op : Byte} {f : U16 → Instr}
    (hf : ∀ v, (f v).wellFormed = true ∧ encode (f v) = op :: encodeU16Le v) : ReadsBack op (formatH op f) := by
  intro args i h
  unfold formatH at h
  split at h <;> cases h
  simpa [encodeU16Le] using hf (le16 _ _)

theorem formatF_readsBack {op : Byte} {f : F32 → Instr}
    (hf : ∀ x, (f x).wellFormed = true ∧ encode (f x) = op :: encodeF32Le x) : ReadsBack op (formatF op f) := by
  intro args i h
  unfold formatF at h
  split at h <;> cases h
  simpa using hf (le32 _ _ _ _)

theorem formatFH_readsBack {op : Byte} {f : F32 → U16 → Instr}
    (hf : ∀ x v, (f x v).wellFormed = true ∧ encode (f x v) = op :: (encodeF32Le x ++ encodeU16Le v)) :
    ReadsBack op (formatFH op f) := by
  intro args i h
  unfold formatFH at h
  split at h <;> cases h
  simpa [encodeU16Le] using hf (le32 _ _ _ _) (le16 _ _)

theorem formatV_readsBack {op : Byte} {f : List Byte → Instr}
    (hf : ∀ data, data.length ≤ 255 →
      (f data).wellFormed = true ∧ encode (f data) = op :: BitVec.ofNat 8 data.length :: data) :
    ReadsBack op (formatV op f) := by
  intro args i h
  cases args with
  | nil => cases h
  | cons len data =>
    rw [formatV] at h
    split at h
    · cases h
    · split at h
      · cases h
      · cases h
        have hlen : data.length = len.toNat := by omega
        have hmax : data.length ≤ 255 := by omega
        simpa [hlen] using hf data hmax

/-! ## Both directions of the encoding -/

/-- Settles O2: each code of R82 has its format, and each format reads back. -/
theorem decodedBytesEncodeBack : Obligations.DecodedBytesEncodeBack := by
  intro bytes i h
  unfold decode at h
  split at h
  · cases h
  · split at h
    case h_1 => exact formatV_readsBack (f := .writeCommand) (fun _ hmax => ⟨decide_eq_true hmax, rfl⟩) _ i h
    case h_2 | h_22 => exact formatBB_readsBack (fun _ _ => ⟨rfl, rfl⟩) _ i h
    case h_14 => exact formatFH_readsBack (fun _ _ => ⟨rfl, rfl⟩) _ i h
    case h_23 => exact formatF_readsBack (fun _ => ⟨rfl, rfl⟩) _ i h
    case h_24 | h_25 => exact formatH_readsBack (fun _ => ⟨rfl, rfl⟩) _ i h
    case h_3 | h_16 | h_20 | h_21 | h_27 | h_28 | h_29 | h_30 | h_31 | h_32 | h_33 | h_34 | h_35 | h_36 =>
      exact formatB_readsBack (fun _ => ⟨rfl, rfl⟩) _ i h
    case h_37 => cases h
    all_goals exact formatN_readsBack ⟨rfl, rfl⟩ _ i h

theorem formatH_encodeU16Le (op : Byte) (f : U16 → Instr) (v : U16) :
    formatH op f (encodeU16Le v) = .instr (f v) := by
  simp [formatH, encodeU16Le]

theorem formatF_encodeF32Le (op : Byte) (f : F32 → Instr) (x : F32) :
    formatF op f (encodeF32Le x) = .instr (f x) := by
  simp [formatF, encodeF32Le]

theorem formatFH_encode (op : Byte) (f : F32 → U16 → Instr) (x : F32) (v : U16) :
    formatFH op f (encodeF32Le x ++ encodeU16Le v) = .instr (f x v) := by
  simp [formatFH, encodeF32Le, encodeU16Le]

/-- Settles O1: the operand bytes assemble to the operands; where every operand is a byte there is nothing to
assemble. -/
theorem decodeEncodeRoundTrip : Obligations.DecodeEncodeRoundTrip := by
  intro i hi
  cases i with
  | writeCommand bytes => exact formatV_cons 0x01#8 .writeCommand bytes (of_decide_eq_true hi)
  | setTempRhComp celsius rhPercent => exact formatFH_encode 0x0E#8 .setTempRhComp celsius rhPercent
  | encodeTempComp celsius => exact formatF_encodeF32Le 0x23#8 .encodeTempComp celsius
  | decodeTempComp raw => exact formatH_encodeU16Le 0x24#8 .decodeTempComp raw
  | decodeRawResistance raw => exact formatH_encodeU16Le 0x25#8 .decodeRawResistance raw
  | _ => rfl

/-- Settles O3: the decoder evaluates on each string. -/
theorem specExampleStringsDecode : Obligations.SpecExampleStringsDecode :=
  ⟨rfl, rfl, rfl, rfl, rfl, rfl, rfl, rfl⟩

/-- The gaps of the map (`30_encoding.md` R99) decode to nothing, whatever follows the code. -/
theorem decode_unmapped (op : Byte) (args : List Byte)
    (h : op.toNat = 0 ∨ (0x14 ≤ op.toNat ∧ op.toNat ≤ 0x1F) ∨ (0x26 ≤ op.toNat ∧ op.toNat ≤ 0x2F) ∨
      0x3B ≤ op.toNat) : decode (op :: args) = .reject (.unknownOpcode op) := by
  simp only [decode]
  split
  case h_37 => rfl
  all_goals exact absurd h (by decide)

end Sys2Proof

namespace Sys2Proof.Machine

open Sys2Proof.Safety

/-! ## Offers of an idle block -/

/-- Settles O4: a code in a gap of the map is rejected by the decoder, and the step refuses what the decoder rejects. -/
theorem illegalOpcodesRefused : Obligations.IllegalOpcodesRefused := fun s op args rest hop hr hp =>
  step_idle_reject s (op :: args) rest _ hr hp (decode_unmapped op args hop)

/-- A table word names an operation only when the decoder reads it from the word's bytes. -/
theorem decodeTableWord_eq_some {nbits w : Nat} {i : Instr} (h : decodeTableWord nbits w = some i) :
    decode (tableWordBytes nbits w) = .instr i := by
  unfold decodeTableWord at h
  split at h
  next j hj =>
    cases h
    exact hj
  next => cases h

/-- Settles O8: the word stands first at the host port of an idle block, so the step takes it. -/
theorem offeredTableWordRunsNext : Obligations.OfferedTableWordRunsNext := fun s nbits w i h =>
  step_idle_operation (s.withFetchWord nbits w) _ s.hostPort i rfl rfl (decodeTableWord_eq_some h)

/-! ## The bytes of a response (R83 to R86) -/

theorem encodeU16Le_eq_ofNat (v : U16) :
    encodeU16Le v = [BitVec.ofNat 8 v.toNat, BitVec.ofNat 8 (v.toNat / 256)] := by
  rw [encodeU16Le, lo8_eq_ofNat, hi8_eq_ofNat]

theorem encodeF32Le_eq_ofNat (x : F32) :
    encodeF32Le x = [BitVec.ofNat 8 x.toNat, BitVec.ofNat 8 (x.toNat / 2 ^ 8), BitVec.ofNat 8 (x.toNat / 2 ^ 16),
      BitVec.ofNat 8 (x.toNat / 2 ^ 24)] := by
  simp [encodeF32Le, BitVec.extractLsb', Nat.shiftRight_eq_div_pow]

/-- Settles O6: the layout is the definition's, clause by clause; the words are written as quotients. -/
theorem responseBytesFollowTheLayout : Obligations.ResponseBytesFollowTheLayout := by
  refine ⟨fun _ => rfl, fun _ => rfl, fun id => ?chipId, fun _ => rfl, rfl, rfl, rfl, rfl, rfl, rfl, fun _ => rfl,
    fun _ => rfl, encodeU16Le_eq_ofNat, encodeF32Le_eq_ofNat, fun _ => rfl, fun _ _ _ => rfl, fun g n e r v => ?status,
    rfl, fun _ _ => rfl, fun _ _ _ _ _ => rfl⟩
  case chipId => exact congrArg ([0x01, 0x02] ++ ·) (encodeU16Le_eq_ofNat id)
  case status => cases v <;> rfl

/-! ## Builder chains (`30_encoding.md` R103, `40_codec.md` R133, R146) -/

theorem icfgBuilder_answeredAtOnce : AnsweredAtOnce .icfgBuilder (.u8 builderStart) := fun s hr =>
  codecOp_idle .icfgBuilder _ s hr

theorem toggle_answeredAtOnce (t : Toggle) (v : Byte) : AnsweredAtOnce (toggleInstr t v) (.u8 (applyToggle t v)) := by
  intro s hr
  cases t <;> exact codecOp_idle _ _ s hr

theorem expandToggles_length (ts : List Toggle) (v : Byte) : (expandToggles ts v).length = ts.length := by
  induction ts generalizing v with
  | nil => rfl
  | cons t ts ih => simp [expandToggles, ih]

/-- Each operation of a chain takes the result before it, so the last one answers with the value of all toggles. -/
theorem expandToggles_last_answers (ts : List Toggle) {j i : Instr} {v : Byte} (hj : AnsweredAtOnce j (.u8 v))
    (hi : (j :: expandToggles ts v).getLast? = some i) :
    AnsweredAtOnce i (.u8 (ts.foldl (fun v t => applyToggle t v) v)) := by
  induction ts generalizing j v with
  | nil =>
    cases hi
    exact hj
  | cons t ts ih =>
    rw [expandToggles, List.getLast?_cons_cons] at hi
    exact ih (toggle_answeredAtOnce t v) hi

theorem applyToggle_of_sets {t : Toggle} (h : toggleSets t = true) (v : Byte) :
    applyToggle t v = setMask (toggleMask t) v := if_pos h

theorem applyToggle_of_clears {t : Toggle} (h : toggleSets t = false) (v : Byte) :
    applyToggle t v = clearMask (toggleMask t) v := by
  simp [applyToggle, h]

theorem setMask_idem (m v : Byte) : setMask m (setMask m v) = setMask m v := by
  simp [setMask, BitVec.or_assoc]

theorem clearMask_idem (m v : Byte) : clearMask m (clearMask m v) = clearMask m v := by
  simp [clearMask, BitVec.and_assoc]

theorem applyToggle_idem (t : Toggle) (v : Byte) : applyToggle t (applyToggle t v) = applyToggle t v := by
  cases h : toggleSets t
  case false => simp only [applyToggle_of_clears h, clearMask_idem]
  case true => simp only [applyToggle_of_sets h, setMask_idem]

/-- The five masks of `40_codec.md` R133. -/
def toggleMasks : List Byte := [maskPol, maskPp, maskIntDat, maskIntGpr, maskIntEn]

theorem toggleMask_mem (t : Toggle) : toggleMask t ∈ toggleMasks := by
  cases t <;> decide

theorem toggleMasks_disjoint : ∀ m ∈ toggleMasks, ∀ n ∈ toggleMasks, m ≠ n → m &&& n = 0 := by decide

theorem toggleMask_disjoint {t u : Toggle} (h : toggleMask t ≠ toggleMask u) : toggleMask t &&& toggleMask u = 0 :=
  toggleMasks_disjoint _ (toggleMask_mem t) _ (toggleMask_mem u) h

theorem setMask_comm (m n v : Byte) : setMask m (setMask n v) = setMask n (setMask m v) := by
  simp only [setMask]
  ac_rfl

theorem clearMask_comm (m n v : Byte) : clearMask m (clearMask n v) = clearMask n (clearMask m v) := by
  simp only [clearMask]
  ac_rfl

/-- Setting one bit and clearing another commute: a bit of `m` is no bit of `n`. -/
theorem setMask_clearMask_comm {m n : Byte} (h : m &&& n = 0) (v : Byte) :
    setMask m (clearMask n v) = clearMask n (setMask m v) := by
  ext k hk
  have hk' : (m[k] && n[k]) = false := by simpa using congrArg (·[k]) h
  simp only [setMask, clearMask, BitVec.getElem_or, BitVec.getElem_and, BitVec.getElem_not]
  cases hm : m[k] <;> simp_all

theorem applyToggle_comm (t u : Toggle) (v : Byte) (h : toggleMask t ≠ toggleMask u) :
    applyToggle t (applyToggle u v) = applyToggle u (applyToggle t v) := by
  cases ht : toggleSets t <;> cases hu : toggleSets u
  case false.false => simp only [applyToggle_of_clears ht, applyToggle_of_clears hu, clearMask_comm (toggleMask t)]
  case false.true =>
    simp only [applyToggle_of_clears ht, applyToggle_of_sets hu, setMask_clearMask_comm (toggleMask_disjoint h.symm)]
  case true.false =>
    simp only [applyToggle_of_sets ht, applyToggle_of_clears hu, setMask_clearMask_comm (toggleMask_disjoint h)]
  case true.true => simp only [applyToggle_of_sets ht, applyToggle_of_sets hu, setMask_comm (toggleMask t)]

/-- Settles O29: the length and the last result by induction along the chain, the laws of R146 from the masks. -/
theorem chainExpansionEndsInItsValue : Obligations.ChainExpansionEndsInItsValue := by
  refine ⟨fun ts i => ⟨?_, expandToggles_last_answers ts icfgBuilder_answeredAtOnce⟩, applyToggle_idem,
    applyToggle_comm⟩
  simp [expandChain, expandToggles_length]

end Sys2Proof.Machine

/-! PROOFS. The statements of `40_codec.md`: the codec operations on bytes, the interrupt-pin builder, the temperature
codec and the raw resistance decoder. -/

namespace Sys2Proof.Machine

open Sys2Proof.Safety

/-! ## Codec operations on bytes (`40_codec.md` R120, R126 to R130) -/

/-- An operation whose meaning is a codec operation is answered as soon as it is accepted. -/
theorem answeredAtOnce_of_codecOp {i : Instr} {v : Value} (h : ∀ s, exec i s = codecOp i v s) : AnsweredAtOnce i v :=
  fun s hr => (h s).trans (codecOp_idle i v s hr)

theorem getLsbD_eq_quotient_odd {w : Nat} (b : BitVec w) (k : Nat) :
    b.getLsbD k = decide (b.toNat / 2 ^ k % 2 = 1) := by
  rw [← BitVec.testBit_toNat, Nat.testBit_eq_decide_div_mod_eq]

/-- The validity flag of a two-bit code, by the number it is. -/
theorem validityOf_eq_ite (code : BitVec 2) :
    validityOf code =
      if code.toNat = 0 then .normalOperation
      else if code.toNat = 1 then .warmupPhase
      else if code.toNat = 2 then .initialStartupPhase
      else .invalidOutput := by
  revert code
  decide

/-- Settles O14: a bit is a quotient modulo 2, the validity code a quotient modulo 4. -/
theorem decodeStatusUnpacksTheByte : Obligations.DecodeStatusUnpacksTheByte := by
  intro b
  have hcode : (b.extractLsb' 2 2).toNat = b.toNat / 4 % 4 := by
    simp [BitVec.extractLsb'_toNat, Nat.shiftRight_eq_div_pow]
  have hstatus := answeredAtOnce_of_codecOp (i := .decodeStatus b) fun _ => rfl
  simp only [statusOf, getLsbD_eq_quotient_odd, validityOf_eq_ite, hcode] at hstatus
  refine ⟨rfl, ?_⟩
  simpa using hstatus

theorem aqiOf_invalidRange {b : Byte} (h : 6 ≤ b.toNat) : aqiOf b = .invalidRange := by
  unfold aqiOf
  split
  case h_7 => rfl
  all_goals exact absurd h (by decide)

/-- Settles O15: the answer is `aqiOf` of the byte. -/
theorem decodeAqiByWholeByte : Obligations.DecodeAqiByWholeByte := by
  have hanswer (b : Byte) : AnsweredAtOnce (.decodeAqi b) (.aqi (aqiOf b)) := answeredAtOnce_of_codecOp fun _ => rfl
  exact ⟨fun _ => rfl, hanswer 0, hanswer 1, hanswer 2, hanswer 3, hanswer 4, hanswer 5,
    fun b h => aqiOf_invalidRange h ▸ hanswer b⟩

theorem le16_eq_ofNat (b0 b1 : Byte) : le16 b0 b1 = BitVec.ofNat 16 (b0.toNat + 256 * b1.toNat) := by
  rw [← le16_toNat, BitVec.ofNat_toNat, BitVec.setWidth_eq]

/-- Settles O16: `le16` is the sum of the rule. -/
theorem decodeU16LeAssembles : Obligations.DecodeU16LeAssembles := fun b0 b1 =>
  ⟨rfl, le16_eq_ofNat b0 b1 ▸ answeredAtOnce_of_codecOp fun _ => rfl⟩

/-- Settles O17: the answers are the definitions' own formulas. -/
theorem tempCompOperationsAnswer : Obligations.TempCompOperationsAnswer :=
  ⟨fun _ => answeredAtOnce_of_codecOp fun _ => rfl, fun _ => answeredAtOnce_of_codecOp fun _ => rfl⟩

/-! ## The toggles (`40_codec.md` R133 to R146) -/

/-- Settles O26: the toggles of polarity, with the mask of bit 6 and its complement. -/
theorem polarityTogglesSetAndClearBit6 : Obligations.PolarityTogglesSetAndClearBit6 := fun v =>
  ⟨rfl, toggle_answeredAtOnce .activeHigh v, rfl, toggle_answeredAtOnce .activeLow v⟩

/-- Settles O27: the start value and the toggles of the other four bits. -/
theorem otherBuilderOperationsAnswer : Obligations.OtherBuilderOperationsAnswer :=
  ⟨rfl, icfgBuilder_answeredAtOnce, fun v =>
    ⟨rfl, toggle_answeredAtOnce .pushPull v, rfl, toggle_answeredAtOnce .openDrain v,
      rfl, toggle_answeredAtOnce .onNewData v, rfl, toggle_answeredAtOnce .offNewData v,
      rfl, toggle_answeredAtOnce .onNewGroupData v, rfl, toggle_answeredAtOnce .offNewGroupData v,
      rfl, toggle_answeredAtOnce .enableInterrupt v, rfl, toggle_answeredAtOnce .disableInterrupt v⟩⟩

/-- No toggle touches the bits 7, 4, 2. -/
theorem toggleMask_outside (t : Toggle) : toggleMask t &&& 0x94 = 0 := by
  cases t <;> rfl

theorem setMask_outside {m n : Byte} (h : m &&& n = 0) (v : Byte) : setMask m v &&& n = v &&& n := by
  rw [setMask, BitVec.and_or_distrib_right, h, BitVec.ofNat_eq_ofNat, BitVec.or_zero]

theorem clearMask_outside {m n : Byte} (h : m &&& n = 0) (v : Byte) : clearMask m v &&& n = v &&& n := by
  ext k hk
  have hk' : (m[k] && n[k]) = false := by simpa using congrArg (·[k]) h
  simp only [clearMask, BitVec.getElem_and, BitVec.getElem_not]
  cases hm : m[k] <;> simp_all

theorem applyToggle_outside (t : Toggle) (v : Byte) : applyToggle t v &&& 0x94 = v &&& 0x94 := by
  cases h : toggleSets t
  case false => rw [applyToggle_of_clears h, clearMask_outside (toggleMask_outside t)]
  case true => rw [applyToggle_of_sets h, setMask_outside (toggleMask_outside t)]

theorem foldl_applyToggle_outside (ts : List Toggle) (v : Byte) :
    ts.foldl (fun v t => applyToggle t v) v &&& 0x94 = v &&& 0x94 := by
  induction ts generalizing v with
  | nil => rfl
  | cons t ts ih => rw [List.foldl_cons, ih, applyToggle_outside]

/-- The toggles that set a bit of `v`, one for each of the five masks. -/
def togglesSetting (v : Byte) : List Toggle :=
  [.activeHigh, .pushPull, .onNewGroupData, .onNewData, .enableInterrupt].filter fun t => toggleMask t &&& v != 0

/-- A byte with the bits 7, 4, 2 clear is the value of the chain that sets its bits, checked byte by byte. -/
theorem chainValue_togglesSetting : ∀ v : Byte, v &&& 0x94 = 0 → chainValue (togglesSetting v) = v := by
  decide

/-- Settles O28: a chain starts with the bits 7, 4, 2 clear and no toggle touches them; every such byte has its
chain. -/
theorem builderChainsReachExactly : Obligations.BuilderChainsReachExactly := fun v =>
  ⟨fun ⟨ts, hts⟩ => hts ▸ foldl_applyToggle_outside ts builderStart,
    fun hv => ⟨togglesSetting v, chainValue_togglesSetting v hv⟩⟩

end Sys2Proof.Machine

namespace Sys2Proof.Machine

open Sys2Proof.Safety

/-! ## Finite values as numbers -/

theorem signed_false (m : Nat) : signed false m = m := rfl

theorem abs_signed (s : Bool) (m : Nat) : |(signed s m : Rat)| = m := by
  cases s <;> simp [signed]

theorem valueOf_fin_false (m : Nat) (e : Int) : valueOf (.fin false m e) = some ((m : Rat) * 2 ^ e) := rfl

/-- Only a finite value has a number. -/
theorem valueOf_eq_some {r : FVal} {v : Rat} (h : valueOf r = some v) :
    ∃ s m e, r = .fin s m e ∧ finValue s m e = v := by
  cases r with
  | nan => cases h
  | inf s => cases h
  | fin s m e => exact ⟨s, m, e, rfl, (finValue_eq_signed s m e).trans (Option.some.inj h)⟩

/-! ## Patterns of values in normal form -/

/-- A sign bit above 31 bits adds. -/
theorem signBit_or_toNat (neg : Bool) (b : Nat) (hb : b < 2 ^ 31) :
    ((if neg then 0x80000000#32 else 0#32) ||| BitVec.ofNat 32 b).toNat = neg.toNat * 2 ^ 31 + b := by
  have hb' : (BitVec.ofNat 32 b).toNat = b := by rw [BitVec.toNat_ofNat]; omega
  cases neg
  · simpa using hb'
  · rw [if_pos rfl, BitVec.toNat_or, hb']
    exact (Nat.two_pow_add_eq_or_of_lt hb 1).symm

/-- The fields of a pattern, from its sign, exponent and fraction. -/
theorem unpack_fields (x : F32) (neg : Bool) (expo frac : Nat) (hexpo : expo < 255) (hfrac : frac < 2 ^ 23)
    (hx : x.toNat = neg.toNat * 2 ^ 31 + (expo * 2 ^ 23 + frac)) :
    unpack x = if expo = 0 then .fin neg frac (-149) else .fin neg (2 ^ 23 + frac) ((expo : Int) - 150) := by
  have hneg : neg.toNat ≤ 1 := Bool.toNat_le neg
  have hsign : x.getLsbD 31 = neg := by
    rw [getLsbD_eq_quotient_odd, hx,
      show (neg.toNat * 2 ^ 31 + (expo * 2 ^ 23 + frac)) / 2 ^ 31 = neg.toNat by omega]
    cases neg <;> rfl
  have he : (x.extractLsb' 23 8).toNat = expo := by
    simp only [BitVec.extractLsb'_toNat, Nat.shiftRight_eq_div_pow]; omega
  have hf : (x.extractLsb' 0 23).toNat = frac := by
    simp only [BitVec.extractLsb'_toNat, Nat.shiftRight_eq_div_pow]; omega
  simp only [unpack, hsign, he, hf, if_neg (show expo ≠ 255 by omega)]

/-- A value in normal form is the value of its pattern. -/
theorem unpack_pack_fin (neg : Bool) (m : Nat) (e : Int) (hm : m < 2 ^ 24) (he : -149 ≤ e ∧ e ≤ 104)
    (hnormal : 2 ^ 23 ≤ m ∨ e = -149) : unpack (pack (.fin neg m e)) = .fin neg m e := by
  rw [pack]
  by_cases hsub : m < 2 ^ 23
  · obtain rfl : e = -149 := hnormal.resolve_left (by omega)
    rw [if_pos hsub, unpack_fields _ neg 0 m (by omega) hsub (by rw [signBit_or_toNat _ _ (by omega)]; omega),
      if_pos rfl]
  · obtain ⟨expo, hexpo⟩ := Int.eq_ofNat_of_zero_le (show 0 ≤ e + 150 by omega)
    rw [if_neg hsub, hexpo, Int.toNat_natCast,
      unpack_fields _ neg expo (m - 2 ^ 23) (by omega) (by omega) (signBit_or_toNat _ _ (by omega)),
      if_neg (by omega), show 2 ^ 23 + (m - 2 ^ 23) = m by omega, show (expo : Int) - 150 = e by omega]

/-- The finite result of one rounding is the value of its pattern. -/
theorem nearestEven_f32Value_pack {x v : Rat} {r : FVal} (h : NearestEven x r) (hv : valueOf r = some v) :
    f32Value (pack r) = some v := by
  cases r with
  | nan => cases hv
  | inf s => cases hv
  | fin s m t =>
    obtain ⟨hm, hmin, hmax, hnormal, -⟩ := h.2.2 s m t rfl
    rw [f32Value, unpack_pack_fin s m t hm ⟨hmin, hmax⟩ hnormal, hv]

/-! ## What one rounding can do to a number, by its size -/

/-- A normal result with unit `2^t` comes from a number of nearly its least magnitude: below `2^23` units the binary32
values lie twice as close. -/
theorem nearestEven_normal_le_abs {x : Rat} {s : Bool} {m : Nat} {t : Int} (h : NearestEven x (.fin s m t))
    (ht : -149 < t) : (2 ^ 23 - 1 / 4) * 2 ^ t ≤ |x| := by
  obtain ⟨-, -, -, hnormal, -, hhalf, -, hquarter⟩ := h.2.2 s m t rfl
  have hu : (0 : Rat) < 2 ^ t := by positivity
  have htri := abs_sub_abs_le_abs_sub ((signed s m : Rat) * 2 ^ t) x
  rw [abs_mul, abs_signed, abs_of_pos hu, abs_sub_comm] at htri
  rcases (hnormal.resolve_right ht.ne').eq_or_lt with hm | hm
  · by_contra hlt
    have hx : |x| < (2 : Rat) ^ (23 : Int) * 2 ^ t := by norm_num at hlt ⊢; linarith
    have hm' : (m : Rat) = 2 ^ 23 := by exact_mod_cast hm.symm
    rw [hm'] at htri
    linarith [hquarter hm.symm ht hx]
  · have hm' : (2 ^ 23 + 1 : Rat) ≤ m := by exact_mod_cast hm
    linarith [mul_le_mul_of_nonneg_right hm' hu.le]

/-- A number up to the largest value with unit `2^k` is rounded to a finite value with no larger unit. -/
theorem nearestEven_finite {x : Rat} {r : FVal} {k : Int} (h : NearestEven x r) (hk : -149 ≤ k ∧ k ≤ 104)
    (hx : |x| ≤ (2 ^ 24 - 1) * 2 ^ k) : ∃ s m t, r = .fin s m t ∧ t ≤ k := by
  cases r with
  | nan => exact absurd rfl h.1
  | inf s =>
    have hpow : (2 : Rat) ^ k ≤ 2 ^ (104 : Int) := zpow_le_zpow_right₀ one_le_two hk.2
    have hbig := (h.2.1 s rfl).1
    norm_num at hbig hpow
    linarith
  | fin s m t =>
    refine ⟨s, m, t, rfl, ?_⟩
    by_contra hlt
    have hlow := nearestEven_normal_le_abs h (by omega)
    have hpos : (0 : Rat) < 2 ^ k := by positivity
    have hunit : (2 : Rat) ^ k * 2 ≤ 2 ^ t := by
      rw [← zpow_add_one₀ two_ne_zero]; exact zpow_le_zpow_right₀ one_le_two (by omega)
    linarith

/-- Two multiples of a unit at most half a unit apart are equal. -/
theorem mul_unit_eq_of_abs_sub_le {i j : Int} {u : Rat} (hu : 0 < u) (h : |(i : Rat) * u - j * u| ≤ u / 2) :
    (i : Rat) * u = j * u := by
  rw [← sub_mul, abs_mul, abs_of_pos hu] at h
  have hlt : |(i : Rat) - j| < 1 := lt_of_mul_lt_mul_right (by linarith) hu.le
  have hzero : i - j = 0 := Int.abs_lt_one_iff.1 (by exact_mod_cast hlt)
  rw [sub_eq_zero.1 hzero]

/-- A number of at most 24 significant bits is its own rounding. -/
theorem nearestEven_exact {n g : Int} {r : FVal} (h : NearestEven (n * 2 ^ g) r) (hn : |n| < 2 ^ 24)
    (hg : -149 ≤ g ∧ g ≤ 104) : valueOf r = some ((n : Rat) * 2 ^ g) := by
  have hx : |(n : Rat) * 2 ^ g| ≤ (2 ^ 24 - 1) * 2 ^ g := by
    have hn' : |(n : Rat)| ≤ 2 ^ 24 - 1 := by exact_mod_cast (by omega : |n| ≤ 2 ^ 24 - 1)
    rw [abs_mul, abs_of_pos (by positivity : (0 : Rat) < 2 ^ g)]
    gcongr
  obtain ⟨s, m, t, rfl, ht⟩ := nearestEven_finite h hg hx
  obtain ⟨-, -, -, -, -, hhalf, -⟩ := h.2.2 s m t rfl
  have hscale : (n : Rat) * 2 ^ g = ((n * 2 ^ (g - t).toNat : Int) : Rat) * 2 ^ t := by
    rw [← two_pow_toNat_mul_zpow ht]; push_cast; ring
  rw [hscale] at hhalf ⊢
  rw [valueOf, mul_unit_eq_of_abs_sub_le (by positivity) hhalf]

/-- Halfway above the largest significand with unit `2^t` the tie goes to the next binade, so the number lies below
it. -/
theorem nearestEven_lt_top {x : Rat} {m : Nat} {t : Int} (h : NearestEven x (.fin false m t)) :
    x < (2 ^ 24 - 1 / 2) * 2 ^ t := by
  obtain ⟨hm, -, -, -, -, hhalf, htie, -⟩ := h.2.2 false m t rfl
  rw [signed_false, Int.cast_natCast] at hhalf htie
  have hu : (0 : Rat) < 2 ^ t := by positivity
  have hdist := (abs_le.1 hhalf).2
  rcases (by omega : m = 2 ^ 24 - 1 ∨ m + 2 ≤ 2 ^ 24) with htop | hroom
  · have hodd : |x - m * 2 ^ t| ≠ 2 ^ t / 2 := fun heq => by
      have := htie heq
      omega
    have hlt := (abs_lt.1 (hhalf.lt_of_ne hodd)).2
    have hm' : (m : Rat) = 2 ^ 24 - 1 := by rw [htop]; norm_num
    rw [hm'] at hlt
    linarith
  · have hm' : (m : Rat) + 2 ≤ 2 ^ 24 := by exact_mod_cast hroom
    linarith [mul_le_mul_of_nonneg_right hm' hu.le]

/-- A number at or past the halfway point below `2^k` is rounded to `2^k` or more. -/
theorem nearestEven_reaches_two_pow {x : Rat} {r : FVal} {k : Int} (h : NearestEven x r) (hk : -125 ≤ k)
    (hx : (2 ^ 25 - 1) * 2 ^ (k - 25) ≤ x) :
    r = .inf false ∨ ∃ m t, r = .fin false m t ∧ (2 : Rat) ^ k ≤ m * 2 ^ t := by
  have hxpos : 0 < x := lt_of_lt_of_le (by positivity) hx
  have hsign : decide (x < 0) = false := decide_eq_false hxpos.le.not_gt
  cases r with
  | nan => exact absurd rfl h.1
  | inf s => exact .inl (by rw [(h.2.1 s rfl).2, hsign])
  | fin s m t =>
    obtain ⟨-, -, -, hnormal, hs, -⟩ := h.2.2 s m t rfl
    obtain rfl : s = false := (hs hxpos.ne').trans hsign
    have ht : k - 23 ≤ t := by
      by_contra hlt
      have hunit : (2 : Rat) ^ t ≤ 2 * 2 ^ (k - 25) := by
        rw [← zpow_one_add₀ two_ne_zero]; exact zpow_le_zpow_right₀ one_le_two (by omega)
      linarith [nearestEven_lt_top h]
    have hm : (2 : Rat) ^ (23 : Int) ≤ m := by exact_mod_cast hnormal.resolve_right (by omega)
    refine .inr ⟨m, t, rfl, ?_⟩
    calc (2 : Rat) ^ k = 2 ^ (23 : Int) * 2 ^ (k - 23) := by rw [← zpow_add₀ two_ne_zero]; congr 1; omega
      _ ≤ m * 2 ^ t := mul_le_mul hm (zpow_le_zpow_right₀ one_le_two ht) (by positivity) (by positivity)

/-- Dividing a `u16` by a power of two is exact. -/
theorem valueOf_fdiv32_u16 (raw : U16) (p : Int) (hp : 0 ≤ p ∧ p ≤ 149) :
    valueOf (fdiv32 (u16ToF32 raw) (.fin false (2 ^ 23) (p - 23))) = some ((raw.toNat : Rat) * 2 ^ (-p)) := by
  obtain ⟨s, m, e, hu, hvalue⟩ := valueOf_eq_some (valueOf_u16ToF32 raw)
  have hdivisor : finValue false (2 ^ 23) (p - 23) = 2 ^ p := by
    rw [finValue_eq_signed, zpow_sub₀ two_ne_zero]
    norm_num [signed]
    ring
  have h := fdiv32_nearestEven s m e false (2 ^ 23) (p - 23) (by norm_num) (by norm_num)
  rw [hvalue, hdivisor, div_eq_mul_inv, ← zpow_neg, ← Int.cast_natCast raw.toNat] at h
  rw [hu]
  have hraw := raw.isLt
  simpa using nearestEven_exact h (by rw [Nat.abs_cast]; omega) (by omega)

end Sys2Proof.Machine

namespace Sys2Proof.Machine

open Sys2Proof.Safety

/-! ## The temperature codec (`40_codec.md` R129, R130, R145) -/

/-- The value of the constant 273.15 as binary32 (D15). -/
def kelvin : Rat := 8950579 / 32768

theorem f32Value_kelvinOffset : f32Value kelvinOffset = some kelvin := by
  rw [f32Value, unpack_kelvinOffset, valueOf, kelvin]
  norm_num [signed]

/-- The first step of the encoder: one rounding of the exact sum. -/
theorem encoder_sum_nearestEven {c : F32} {v : Rat} (hv : f32Value c = some v) :
    NearestEven (v + kelvin) (fadd32 (unpack c) (unpack kelvinOffset)) :=
  (binary32OperationsRoundOnce c kelvinOffset v kelvin hv f32Value_kelvinOffset).1

/-- The second step of the encoder on a finite value: the product with 64. -/
theorem fmul32_tempScale (s : Bool) (m : Nat) (e : Int) :
    fmul32 (.fin s m e) (unpack tempScale) = roundTo s (m * 2 ^ 23) (e - 17) := by
  rw [unpack_tempScale, fmul32_fin, Bool.xor_false]; rfl

theorem fmul32_tempScale_nearestEven (s : Bool) (m : Nat) (e : Int) :
    NearestEven ((signed s m : Rat) * 2 ^ (e + 6)) (fmul32 (.fin s m e) (unpack tempScale)) := by
  have hexact : (signed s m : Rat) * 2 ^ (e + 6) = finValue s m e * finValue false (2 ^ 23) (-17) := by
    have hscale : finValue false (2 ^ 23) (-17) = 2 ^ (6 : Int) := by
      rw [finValue_eq_signed]
      norm_num [signed]
    rw [hscale, finValue_eq_signed, zpow_add₀ two_ne_zero, mul_assoc]
  rw [hexact, unpack_tempScale]
  exact fmul32_nearestEven s m e false (2 ^ 23) (-17)

/-- What is negative in sign is truncated to 0. -/
theorem truncSat_roundTo_neg (n : Nat) (e : Int) : f32ToU16TruncSat (roundTo true n e) = 0 := by
  by_cases hn : n = 0
  · rw [hn, roundTo_zero, truncSat_fin_neg]
  · rw [roundTo_of_ne_zero true n e hn]
    split <;> split <;> rfl

/-- At or past 65536 the truncation saturates. -/
theorem truncSat_of_reaches {r : FVal}
    (h : r = .inf false ∨ ∃ m t, r = .fin false m t ∧ (2 : Rat) ^ (16 : Int) ≤ m * 2 ^ t) :
    f32ToU16TruncSat r = 65535 := by
  rcases h with rfl | ⟨m, t, rfl, hle⟩
  · rfl
  · have hfloor : (2 ^ 16 : Int) ≤ ⌊(m : Rat) * 2 ^ t⌋ := Int.le_floor.2 (by exact_mod_cast hle)
    obtain ⟨-, -, -, htrunc⟩ := truncationSaturates
    obtain ⟨-, -, hsaturates⟩ := htrunc _ _ (valueOf_fin_false m t)
    exact hsaturates (by omega)

/-- A sum that is not positive is scaled and truncated to 0. -/
theorem tempEncode_of_sum_nonpos {c : F32} {v : Rat} (hv : f32Value c = some v) (h : v + kelvin ≤ 0) :
    tempEncode c = 0 := by
  rw [tempEncode]
  rcases h.eq_or_lt with h0 | hneg
  · obtain ⟨-, hzero, -⟩ := binary32OperationsRoundOnce c kelvinOffset v kelvin hv f32Value_kelvinOffset
    rw [hzero h0, fmul32_tempScale, Nat.zero_mul, roundTo_zero]
    cases c.getLsbD 31 <;> rfl
  · obtain ⟨hnan, hinf, hfin⟩ := encoder_sum_nearestEven hv
    cases hr : fadd32 (unpack c) (unpack kelvinOffset) with
    | nan => exact absurd hr hnan
    | inf s =>
      obtain rfl : s = true := (hinf s hr).2.trans (decide_eq_true hneg)
      rfl
    | fin s m t =>
      obtain ⟨-, -, -, -, hs, -⟩ := hfin s m t hr
      rw [fmul32_tempScale, (hs hneg.ne).trans (decide_eq_true hneg), truncSat_roundTo_neg]

/-- A sum at or past the halfway point below 1024 is rounded to 1024 or more, and 64 times that saturates. -/
theorem tempEncode_of_sum_ge {c : F32} {v : Rat} (hv : f32Value c = some v)
    (h : (2 ^ 25 - 1) * 2 ^ (10 - 25 : Int) ≤ v + kelvin) : tempEncode c = 65535 := by
  rw [tempEncode]
  rcases nearestEven_reaches_two_pow (encoder_sum_nearestEven hv) (by norm_num) h with hr | ⟨m, t, hr, hle⟩
  · rw [hr]; rfl
  · rw [hr]
    refine truncSat_of_reaches (nearestEven_reaches_two_pow (fmul32_tempScale_nearestEven false m t) (by norm_num) ?_)
    have hscale : (2 : Rat) ^ (t + 6) = 2 ^ t * 64 := by rw [zpow_add₀ two_ne_zero]; norm_num
    rw [hscale, signed_false]
    norm_num at hle ⊢
    linarith

/-- Settles O18: the sum's sign and size decide, for special operands the definitions of the operations. -/
theorem encodeTempCompSaturates : Obligations.EncodeTempCompSaturates := by
  intro c
  refine ⟨fun h => ?_, fun h => ?_, fun h => ?_, fun v hv => ⟨fun hle => ?_, fun u hu hle => ?_⟩⟩
  · rw [tempEncode, h]; rfl
  · rw [tempEncode, h]; rfl
  · rw [tempEncode, h]; rfl
  · exact tempEncode_of_sum_nonpos hv (by rw [kelvin]; linarith)
  · have hunpack : unpack 0x443BB666#32 = .fin false 12301926 (-14) := by decide
    rw [f32Value, hunpack, valueOf_fin_false, Option.some.injEq] at hu
    refine tempEncode_of_sum_ge hv ?_
    rw [kelvin]
    norm_num at hu ⊢
    linarith

/-- The decoder rounds once, in the subtraction. -/
theorem tempDecode_nearestEven (raw : U16) :
    ∃ r, tempDecode raw = pack r ∧ NearestEven ((raw.toNat : Rat) / 64 - kelvin) r := by
  have hq := valueOf_fdiv32_u16 raw 6 (by norm_num)
  obtain ⟨s, m, e, hfin, hvalue⟩ := valueOf_eq_some hq
  refine ⟨_, rfl, ?_⟩
  have hexact : (raw.toNat : Rat) / 64 - kelvin = finValue s m e + finValue true 8950579 (-15) := by
    rw [hvalue, finValue_eq_signed, kelvin]
    norm_num [signed]
    ring
  rw [hexact, unpack_tempScale, unpack_kelvinOffset]
  exact hfin ▸ fadd32_nearestEven s m e true 8950579 (-15)

/-- The rounding moves the decoded temperature by at most half of 2^-14, the unit below 1024. -/
theorem tempDecode_error (raw : U16) :
    ∃ d, f32Value (tempDecode raw) = some d ∧ |(raw.toNat : Rat) / 64 - kelvin - d| ≤ 1 / 2 ^ 15 := by
  obtain ⟨r, hr, hround⟩ := tempDecode_nearestEven raw
  have hmax : (raw.toNat : Rat) ≤ 65535 := by exact_mod_cast Nat.le_of_lt_succ raw.isLt
  have hmin : (0 : Rat) ≤ raw.toNat := Nat.cast_nonneg _
  obtain ⟨s, m, t, rfl, ht⟩ := nearestEven_finite hround (k := -14) (by norm_num)
    (by rw [kelvin, abs_le]; norm_num; constructor <;> linarith)
  obtain ⟨-, -, -, -, -, hhalf, -⟩ := hround.2.2 s m t rfl
  have hunit : (2 : Rat) ^ t ≤ 2 ^ (-14 : Int) := zpow_le_zpow_right₀ one_le_two ht
  refine ⟨_, hr ▸ nearestEven_f32Value_pack hround rfl, hhalf.trans ?_⟩
  norm_num at hunit ⊢
  linarith

/-- Settles O19: neighbours lie 1/64 apart before the rounding, which moves each by at most 2^-15. -/
theorem decodeTempCompIsIncreasing : Obligations.DecodeTempCompIsIncreasing := by
  intro a b hab
  obtain ⟨va, ha, hea⟩ := tempDecode_error a
  obtain ⟨vb, hb, heb⟩ := tempDecode_error b
  have hab' : (a.toNat : Rat) + 1 ≤ b.toNat := by exact_mod_cast hab
  refine ⟨va, vb, ha, hb, ?_⟩
  linarith [(abs_le.1 hea).1, (abs_le.1 heb).2]

/-- For a raw value up to 2^15 the decoded temperature is exact: a multiple of 2^-15 with at most 24 significant
bits. -/
theorem tempDecode_exact (raw : U16) (h : raw.toNat ≤ 2 ^ 15) :
    f32Value (tempDecode raw) = some ((raw.toNat : Rat) / 64 - kelvin) := by
  obtain ⟨r, hr, hround⟩ := tempDecode_nearestEven raw
  have hunits : (raw.toNat : Rat) / 64 - kelvin = ((512 * raw.toNat - 8950579 : Int) : Rat) * 2 ^ (-15 : Int) := by
    rw [kelvin]; push_cast; norm_num; ring
  rw [hr]
  refine nearestEven_f32Value_pack hround ?_
  rw [hunits] at hround ⊢
  exact nearestEven_exact hround (abs_lt.2 ⟨by omega, by omega⟩) (by norm_num)

/-- Multiplying by 64 is exact, so the encoder truncates 64 times the rounded sum. -/
theorem tempEncode_of_sum_eq {c : F32} {m : Nat} {d : Nat} (hd : d = 9 ∨ d = 10) (hm : m < 2 ^ 24)
    (h : fadd32 (unpack c) (unpack kelvinOffset) = .fin false m (-(d : Int) - 6)) :
    (tempEncode c).toNat = m / 2 ^ d := by
  have hproduct := fmul32_tempScale_nearestEven false m (-(d : Int) - 6)
  rw [sub_add_cancel] at hproduct
  have hvalue := nearestEven_exact hproduct (by rw [signed_false, Nat.abs_cast]; omega) (by omega)
  have hquotient : ((signed false m : Int) : Rat) * 2 ^ (-(d : Int)) = (m : Rat) / (2 ^ d : Nat) := by
    rw [zpow_neg, zpow_natCast, ← div_eq_mul_inv, signed_false]; push_cast; rfl
  rw [hquotient] at hvalue
  have hmax : m / 2 ^ d ≤ 65535 := by rcases hd with rfl | rfl <;> omega
  obtain ⟨-, -, -, htrunc⟩ := truncationSaturates
  obtain ⟨-, hfloor, -⟩ := htrunc _ _ hvalue
  rw [Rat.floor_natCast_div_natCast] at hfloor
  rw [tempEncode, h]
  exact_mod_cast hfloor (by positivity) (by omega)

/-- From 253 to 334 kelvin, the sum is rounded with a unit of 2^-16 or 2^-15. -/
theorem encoder_sum_realistic {c : F32} {v : Rat} (hv : f32Value c = some v) (hmin : 253 ≤ v + kelvin)
    (hmax : v + kelvin ≤ 334) : ∃ m d : Nat, (d = 9 ∨ d = 10) ∧ m < 2 ^ 24 ∧
      fadd32 (unpack c) (unpack kelvinOffset) = .fin false m (-(d : Int) - 6) ∧
      |v + kelvin - m * 2 ^ (-(d : Int) - 6)| ≤ 2 ^ (-(d : Int) - 6) / 2 := by
  have hround := encoder_sum_nearestEven hv
  obtain ⟨s, m, t, hr, ht⟩ := nearestEven_finite hround (k := -15) (by norm_num)
    (by rw [abs_of_pos (by linarith)]; norm_num; linarith)
  obtain ⟨hm, -, -, -, hs, hhalf, -⟩ := hround.2.2 s m t hr
  obtain rfl : s = false := (hs (by linarith)).trans (decide_eq_false (by linarith))
  rw [signed_false, Int.cast_natCast] at hhalf
  have hlow : -16 ≤ t := by
    by_contra hlt
    have hunit : (2 : Rat) ^ t ≤ 2 ^ (-17 : Int) := zpow_le_zpow_right₀ one_le_two (by omega)
    have hm' : (m : Rat) ≤ 2 ^ 24 := by exact_mod_cast hm.le
    have hvalue : (m : Rat) * 2 ^ t ≤ 2 ^ 24 * 2 ^ (-17 : Int) := by gcongr
    norm_num at hunit hvalue
    linarith [(abs_le.1 hhalf).2]
  obtain ⟨d, rfl⟩ : ∃ d : Nat, t = -(d : Int) - 6 := ⟨(-t - 6).toNat, by omega⟩
  exact ⟨m, d, by omega, hm, hr, hhalf⟩

/-- Settles O20: the sum and the truncation move the temperature, the decoder does not. -/
theorem tempCompRoundTrip : Obligations.TempCompRoundTrip := by
  intro c t hc hmin hmax
  obtain ⟨m, d, hd, hm, hsum, herr⟩ :=
    encoder_sum_realistic hc (by rw [kelvin]; linarith) (by rw [kelvin]; linarith)
  have hn := tempEncode_of_sum_eq hd hm hsum
  have hfloor : m / 2 ^ d * 2 ^ d ≤ m ∧ m + 1 ≤ m / 2 ^ d * 2 ^ d + 2 ^ d := by
    have := Nat.div_add_mod' m (2 ^ d)
    have := Nat.mod_lt m (Nat.two_pow_pos d)
    omega
  have hn15 : (tempEncode c).toNat ≤ 2 ^ 15 := by
    rw [hn]; rcases hd with rfl | rfl <;> omega
  refine ⟨_, tempDecode_exact _ hn15, ?_⟩
  rw [← hn] at hfloor
  generalize (tempEncode c).toNat = n at *
  obtain ⟨hlow, hhigh⟩ := hfloor
  have hlow' : (n : Rat) * 2 ^ d ≤ m := by exact_mod_cast hlow
  have hhigh' : (m : Rat) + 1 ≤ n * 2 ^ d + 2 ^ d := by exact_mod_cast hhigh
  obtain ⟨hbelow, habove⟩ := abs_le.1 herr
  rcases hd with rfl | rfl <;> norm_num at hlow' hhigh' hbelow habove ⊢ <;> constructor <;> linarith

end Sys2Proof.Machine

namespace Sys2Proof.Machine

open Sys2Proof.Safety

/-! ## The raw resistance decoder (`40_codec.md` R131, R132) -/

/-- A value that is not below 0 is its magnitude, and has a minus sign only as a zero. -/
theorem finValue_nonneg {s : Bool} {m : Nat} {e : Int} (h : 0 ≤ finValue s m e) :
    finValue s m e = m * 2 ^ e ∧ (s && decide (m ≠ 0)) = false := by
  cases s with
  | false => simp [finValue, signFactor]
  | true =>
    have hmag : (m : Rat) * 2 ^ e = 0 := by
      have hpos : (0 : Rat) ≤ m * 2 ^ e := by positivity
      simp only [finValue, signFactor, if_true] at h
      linarith
    have hm : m = 0 := by simpa [zpow_ne_zero] using hmag
    simp [finValue, hm]

/-- A magnitude that is a natural number is truncated to itself, and no bit is lost. -/
theorem truncMag_of_natCast {m n : Nat} {e : Int} (h : (m : Rat) * 2 ^ e = n) :
    truncMag m e = n ∧ (0 ≤ e ∨ m % 2 ^ (-e).toNat = 0) := by
  constructor
  · have hfloor := floor_eq_truncMag m e
    rw [h, Int.floor_natCast] at hfloor
    exact_mod_cast hfloor.symm
  · refine or_iff_not_imp_left.2 fun hneg => ?_
    obtain ⟨d, hd⟩ := Int.eq_ofNat_of_zero_le (show 0 ≤ -e by omega)
    rw [show e = -(d : Int) by omega, zpow_neg, zpow_natCast, mul_inv_eq_iff_eq_mul₀ (by positivity)] at h
    have hm : m = n * 2 ^ d := by exact_mod_cast h
    rw [hd, Int.toNat_natCast, hm, Nat.mul_mod_left]

/-- The argument `n / 2048` is recognised in whatever finite form it has. -/
theorem exp2Argument_of_value {r : FVal} {n : Nat} (hn : n < 65536)
    (h : valueOf r = some ((n : Rat) * 2 ^ (-11 : Int))) : exp2Argument r = some n := by
  obtain ⟨s, m, e, rfl, hvalue⟩ := valueOf_eq_some h
  obtain ⟨hmag, hsign⟩ := finValue_nonneg (s := s) (m := m) (e := e) (by rw [hvalue]; positivity)
  have hunits : (m : Rat) * 2 ^ (e + 11) = n := by
    rw [zpow_add₀ two_ne_zero, ← mul_assoc, ← hmag, hvalue, mul_assoc, ← zpow_add₀ two_ne_zero]
    norm_num
  obtain ⟨htrunc, hwhole⟩ := truncMag_of_natCast hunits
  simp only [exp2Argument, hsign, Bool.false_eq_true, if_false, htrunc, if_pos (And.intro hn hwhole)]

/-- The division is exact, so the power function gets the argument it is correctly rounded on. -/
theorem resistanceDecode_eq (raw : U16) : resistanceDecode raw = pack (exp2Raw raw.toNat) := by
  have hdiv := valueOf_fdiv32_u16 raw 11 (by norm_num)
  have harg := exp2Argument_of_value raw.isLt hdiv
  rw [resistanceDecode, unpack_resScale, exp2F32, show (-12 : Int) = 11 - 23 from rfl, harg]

theorem exp2Significand_range (f : Nat) : 2 ^ 23 ≤ exp2Significand f ∧ exp2Significand f < 2 ^ 24 := by
  have := exp2Search_range f 23 (2 ^ 23)
  rw [exp2Significand]
  omega

/-- The answer is a normal binary32 value. -/
theorem f32Value_resistanceDecode (raw : U16) :
    f32Value (resistanceDecode raw) =
      some ((exp2Significand (raw.toNat % 2048) : Rat) * (2 : Rat) ^ ((raw.toNat / 2048 : Nat) - 23 : Int)) := by
  obtain ⟨hmin, hmax⟩ := exp2Significand_range (raw.toNat % 2048)
  have hraw := raw.isLt
  rw [resistanceDecode_eq, exp2Raw, f32Value, unpack_pack_fin _ _ _ hmax (by omega) (.inl hmin), valueOf_fin_false]

theorem belowExp2_iff (f m : Nat) : belowExp2 f m = true ↔ (2 * m - 1) ^ 2048 < 2 ^ (24 * 2048 + f) :=
  decide_eq_true_iff

/-- An `N`th power is below a power of two if its base is below the `N`th root of a smaller one. -/
theorem pow_lt_two_pow_add {a b N : Nat} (hN : N ≠ 0) (h : a < 2 ^ b) (f : Nat) : a ^ N < 2 ^ (b * N + f) :=
  calc a ^ N < (2 ^ b) ^ N := Nat.pow_lt_pow_left h hN
    _ = 2 ^ (b * N) := (Nat.pow_mul ..).symm
    _ ≤ 2 ^ (b * N + f) := Nat.pow_le_pow_right (by norm_num) (Nat.le_add_right ..)

theorem lt_two_pow_of_pow_lt {a b N : Nat} (h : a ^ N < 2 ^ (b * N)) : a < 2 ^ b :=
  lt_of_pow_lt_pow_left₀ N (Nat.zero_le _) (h.trans_eq (Nat.pow_mul ..))

/-- The half-integer below the significand lies below the power: the search starts from 2^23, which does. -/
theorem exp2Significand_below (f : Nat) : (2 * exp2Significand f - 1) ^ 2048 < 2 ^ (24 * 2048 + f) := by
  have hstart : belowExp2 f (2 ^ 23) = true := (belowExp2_iff f _).2 (pow_lt_two_pow_add (by norm_num) (by norm_num) f)
  exact (belowExp2_iff f _).1 (exp2Search_below f 23 (2 ^ 23) hstart)

/-- The power `2^(23 + f/N)` lies below the half-integer above the largest significand: by Bernoulli's inequality,
`(1 - 2^-25)^N` is more than a half. -/
theorem two_pow_lt_top {N f : Nat} (hN : N < 2 ^ 24) (hf : f < N) : 2 ^ (24 * N + f) < (2 ^ 25 - 1) ^ N := by
  have hbernoulli : 1 + (N : Rat) * (-1 / 2 ^ 25) ≤ (1 + -1 / 2 ^ 25) ^ N := one_add_mul_le_pow (by norm_num) N
  have hhalf : (1 / 2 : Rat) < (1 + -1 / 2 ^ 25) ^ N := by
    have hN' : (N : Rat) < 2 ^ 24 := by exact_mod_cast hN
    linarith
  have htwice : (2 : Rat) ^ (24 * N + f) ≤ (2 ^ 25) ^ N * (1 / 2) := by
    rw [mul_one_div, le_div_iff₀ two_pos, ← pow_succ, ← pow_mul]
    exact pow_le_pow_right₀ one_le_two (by omega)
  have hpos : (0 : Rat) < (2 ^ 25) ^ N := by positivity
  have hlt : (2 : Rat) ^ (24 * N + f) < ((2 ^ 25 - 1 : Nat) : Rat) ^ N :=
    calc (2 : Rat) ^ (24 * N + f) ≤ (2 ^ 25) ^ N * (1 / 2) := htwice
      _ < (2 ^ 25) ^ N * (1 + -1 / 2 ^ 25) ^ N := mul_lt_mul_of_pos_left hhalf hpos
      _ = ((2 ^ 25 - 1 : Nat) : Rat) ^ N := by rw [← mul_pow]; norm_num
  exact_mod_cast hlt

/-- The half-integer above the significand lies above the power: the search finds the greatest number below, and an
odd number's power is no power of two. -/
theorem exp2Significand_above {f : Nat} (hf : f < 2048) : 2 ^ (24 * 2048 + f) < (2 * exp2Significand f + 1) ^ 2048 := by
  obtain ⟨-, hmax⟩ := exp2Significand_range f
  rcases eq_or_lt_of_le (Nat.succ_le_of_lt hmax) with htop | hroom
  · rw [show 2 * exp2Significand f + 1 = 2 ^ 25 - 1 by omega]
    exact two_pow_lt_top (by norm_num) hf
  · have hnot : ¬ belowExp2 f (exp2Significand f + 1) = true := fun h =>
      absurd (exp2Search_greatest f 23 (2 ^ 23) _ (by omega) h) (Nat.not_succ_le_self _)
    rw [belowExp2_iff, not_lt, show 2 * (exp2Significand f + 1) - 1 = 2 * exp2Significand f + 1 by omega] at hnot
    refine lt_of_le_of_ne hnot fun heq => ?_
    have hodd : Odd ((2 * exp2Significand f + 1) ^ 2048) := Odd.pow ⟨_, rfl⟩
    rw [← heq, Nat.odd_pow_iff (by omega)] at hodd
    exact absurd hodd (by decide)

/-- Settles O25: the significand of the answer is the one the search finds. -/
theorem rawResistanceIsNearest : Obligations.RawResistanceIsNearest := by
  intro raw
  obtain ⟨hmin, hmax⟩ := exp2Significand_range (raw.toNat % 2048)
  exact ⟨resistanceDecode raw, exp2Significand (raw.toNat % 2048), answeredAtOnce_of_codecOp fun _ => rfl,
    f32Value_resistanceDecode raw, hmin, hmax, exp2Significand_below _,
    exp2Significand_above (Nat.mod_lt _ (by norm_num))⟩

/-- The significand nearest to `2^23` is `2^23`. -/
theorem exp2Significand_zero : exp2Significand 0 = 2 ^ 23 := by
  have hbelow := exp2Significand_below 0
  rw [Nat.add_zero] at hbelow
  have hbase := lt_two_pow_of_pow_lt hbelow
  have := exp2Significand_range 0
  omega

/-- At a multiple of 2048 the decoder's value is a power of two. -/
theorem exp2Raw_mul (k : Nat) : exp2Raw (2048 * k) = .fin false (2 ^ 23) ((k : Int) - 23) := by
  rw [exp2Raw, Nat.mul_mod_right, Nat.mul_div_cancel_left k (by norm_num), exp2Significand_zero]

theorem pack_two_pow (k : Nat) :
    pack (.fin false (2 ^ 23) ((k : Int) - 23)) = BitVec.ofNat 32 ((127 + k) * 2 ^ 23) := by
  rw [pack, if_neg Bool.false_ne_true, if_neg (lt_irrefl _), Nat.sub_self, Nat.add_zero,
    show ((k : Int) - 23 + 150).toNat = 127 + k by omega, BitVec.zero_or]

/-- Settles O24: the argument is the integer `k`. -/
theorem rawResistanceExactPowers : Obligations.RawResistanceExactPowers := by
  intro k hk
  have hraw : (BitVec.ofNat 16 (2048 * k)).toNat = 2048 * k := by rw [BitVec.toNat_ofNat]; omega
  have hanswer : resistanceDecode (BitVec.ofNat 16 (2048 * k)) = BitVec.ofNat 32 ((127 + k) * 2 ^ 23) := by
    rw [resistanceDecode_eq, hraw, exp2Raw_mul, pack_two_pow]
  refine ⟨hanswer ▸ answeredAtOnce_of_codecOp fun _ => rfl, ?_⟩
  rw [← pack_two_pow, f32Value, unpack_pack_fin _ _ _ (by norm_num) (by omega) (.inl le_rfl), valueOf_fin_false,
    zpow_sub₀ two_ne_zero, zpow_natCast]
  norm_num
  ring

end Sys2Proof.Machine

/-! PROOFS. The statements of `41_bus_primitives.md`: the step that runs an offer, the order of the requests, fail fast,
and the two bus primitives. -/

namespace Sys2Proof.Machine

open Sys2Proof.Safety

/-! ## The offered operation: refused, or launched (R160) -/

/-- Settles O7: the decoder yields well-formed operations only, and the step executes the one it yields. -/
theorem stepRunsTheOfferedOperation : Obligations.StepRunsTheOfferedOperation := fun s o rest i hr hp hd =>
  ⟨(decodedBytesEncodeBack o i hd).1, step_idle_operation s o rest i hr hp hd⟩

theorem exec_eq_protocolOp {i : Instr} (hp : i.isProtocol = true) (s : State) :
    exec i s = protocolOp i (microOf i) s := by
  rcases exec_cases i s with ⟨-, he⟩ | ⟨hcodec, -⟩
  · exact he
  · simp [hp] at hcodec

/-- After `RELEASE` the refusal comes before the operands are looked at (`60_exceptions.md` R281). -/
theorem exec_released {i : Instr} {s : State} (hp : i.isProtocol = true) (hr : s.run = .idle)
    (hl : s.life = .released) : exec i s = .next (answeredAtOnce s (.refused .released)) :=
  (exec_eq_protocolOp hp s).trans (protocolOp_released i _ s hr hl)

theorem exec_badOperand {i : Instr} {s : State} (hp : i.isProtocol = true) (hs : accepting s)
    (ho : operandOk i = false) : exec i s = .next (answeredAtOnce s (.refused .badOperand)) :=
  (exec_eq_protocolOp hp s).trans (protocolOp_badOperand i _ s hs.1 hs.2 ho)

/-- Acceptance writes `RUN`, `SEQ` and, for `INITIALIZE`, `INIT_STATE` (R160 (1), `43_initialize.md` R231). -/
theorem accepted_eq (i : Instr) (s : State) :
    accepted i s = { s with
      initState := if i = .initializeSensor then .start else s.initState
      seq := 0
      run := .running i [] Partial.none } := by
  cases i <;> rfl

/-- An accepted operation with requests to make issues the first and is driven. -/
theorem exec_of_accepts {i : Instr} {s : State} (hacc : Accepts i s) (hr : s.run = .idle) {q : MicroReq}
    {qs : List MicroReq} (ht : (microOf i).table = q :: qs) :
    exec i s = drive (microOf i) s.inputs ((accepted i s).issue (toRequest s.devAddr q)) := by
  have hlaunch : exec i s = launch (microOf i) (accepted i s) :=
    (exec_eq_protocolOp hacc.protocol s).trans (protocolOp_accepted i _ s hr hacc.life hacc.operands)
  rw [hlaunch, launch_table _ q qs _ ht, issueAt_some _ _ _ q (by simp [ht]), accepted_eq]

/-! ## One answer: the request it answers, and what the checks find (R161) -/

/-- The bytes an answer brings. -/
def Answer.read : Answer → Option (List Byte)
  | .data bs => some bs
  | .wrote | .err _ | .elapsed => none

/-- The state the checks after a good answer look at: the answer taken, the bytes read in `SCR`. -/
def State.answered (s : State) (a : Answer) : State := (s.takeAnswer a).loadScr a.read

theorem State.answered_eq {s : State} {op : Instr} {scr : List Byte} {acc : Partial}
    (hr : s.run = .running op scr acc) (a : Answer) :
    s.answered a = { s with
      run := .running op (scrAfter a scr) acc
      pending := none
      trace := s.trace ++ [.answered a] } := by
  cases a <;> simp [answered, Answer.read, scrAfter, takeAnswer, loadScr, hr]

theorem receive_goodAnswer {q : Request} {a : Answer} (h : goodAnswer q a) : receive (some q) a = .good a.read := by
  cases q with
  | busWrite dev bytes => obtain rfl := h; rfl
  | busWriteRead dev wbytes n =>
    obtain ⟨bs, rfl, hlen⟩ := h
    exact receive_data dev wbytes bs n hlen
  | delayMs n => obtain rfl := h; rfl

/-- A good answer leads to the checks. -/
theorem takeTurn_goodAnswer (m : MicroOp) {s : State} {q : Request} {a : Answer} (hp : s.pending = some q)
    (ha : goodAnswer q a) : takeTurn m a s = proceed m s.seq (m.after s.seq (s.answered a)) := by
  simp [takeTurn, hp, receive_goodAnswer ha, State.answered]

/-- A transport error on a bus request leads to the operation's error branch. -/
theorem takeTurn_err (m : MicroOp) {s : State} {q : Request} (hp : s.pending = some q) (hq : ∀ n, q ≠ .delayMs n)
    (t : BusErr) : takeTurn m (.err t) s = proceed m s.seq (m.onErr s.seq t (s.takeAnswer (.err t))) := by
  cases q with
  | busWrite dev bytes => simp [takeTurn, hp]
  | busWriteRead dev wbytes n => simp [takeTurn, hp]
  | delayMs n => exact absurd rfl (hq n)

/-! ## The table of an operation (`10_state.md` R24) -/

theorem requestsOf_getElem?_eq_some {dev : Addr7} {i : Instr} {k : Nat} {q : Request} :
    (requestsOf dev i)[k]? = some q ↔ ∃ r, (microOf i).table[k]? = some r ∧ toRequest dev r = q := by
  rw [← microOf_table, List.getElem?_map, Option.map_eq_some_iff]

theorem requestsOf_getElem?_eq_none {dev : Addr7} {i : Instr} {k : Nat} :
    (requestsOf dev i)[k]? = none ↔ (microOf i).table.length ≤ k := by
  rw [← microOf_table, List.getElem?_eq_none_iff, List.length_map]

/-- The operation succeeds after the last request of its table and not before; until then it keeps a result at
most. -/
structure MicroOp.EndsWithTable (m : MicroOp) : Prop where
  goesOn : ∀ {k : Nat}, k + 1 < m.table.length → ∀ s, ∃ f, m.after k s = .next (s.keep f)
  ends : ∀ {k : Nat}, m.table.length ≤ k + 1 → ∀ s, ∃ v, m.after k s = .done (s.succeed v)

theorem straightLine_endsWithTable (table : List MicroReq) (between : Nat → State → State)
    (result : State → Value) (hb : ∀ k s, ∃ f, between k s = s.keep f) : (straightLine table between result).EndsWithTable where
  goesOn {k} hk s := by
    obtain ⟨f, hf⟩ := hb k s
    exact ⟨f, (if_pos hk).trans (congrArg Progress.next hf)⟩
  ends hk s := ⟨result s, if_neg (Nat.not_lt.2 hk)⟩

/-- So do all protocol operations but `INITIALIZE`, whose checks can end it, and `RELEASE`, which has no table. -/
theorem microOf_endsWithTable {i : Instr} (hp : i.isProtocol = true) (hi : i ≠ .initializeSensor)
    (hrel : i ≠ .release) : (microOf i).EndsWithTable := by
  cases i with
  | initializeSensor => exact absurd rfl hi
  | release => exact absurd rfl hrel
  | getTempRhComp => exact straightLine_endsWithTable _ _ _ fun _ _ => ⟨_, rfl⟩
  | getMeasurements => exact straightLine_endsWithTable _ _ _ keepMeasurement_keep
  | writeCommand | readRegister | setOperationMode | getPartId | getFirmwareVersion | clearCommand | getEco2 | getTvoc
  | getAirqualityIndex | getEtoh | getRawResistance | getStatus | getGroupData | setTempRhComp | configInterruptPin =>
    exact straightLine_endsWithTable _ _ _ fun _ s => ⟨id, s.keep_id.symm⟩
  | _ => exact absurd hp Bool.false_ne_true

/-! ## One answer, driven: the next request, or the end (R161, R166) -/

section
variable {m : MicroOp} {s : State} {op : Instr} {scr : List Byte} {acc : Partial} {q : Request} {a : Answer}

/-- A good answer after which the checks go on issues the next request of the table. -/
theorem drive_nextRequest (rest : List Input) {f : Partial → Partial} {r : MicroReq}
    (hr : s.run = .running op scr acc) (hp : s.pending = some q) (ha : goodAnswer q a)
    (hafter : m.after s.seq (s.answered a) = .next ((s.answered a).keep f)) (ht : m.table[s.seq + 1]? = some r) :
    drive m (.answer a :: rest) s = drive m rest { s with
      seq := s.seq + 1
      run := .running op (scrAfter a scr) (f acc)
      pending := some (toRequest s.devAddr r)
      trace := s.trace ++ [.answered a, .issued (toRequest s.devAddr r)] } := by
  refine drive_goesOn m a rest s _ ?_
  rw [takeTurn_goodAnswer m hp ha, hafter, proceed_next, issueAt_some m _ _ r ht, State.answered_eq hr]
  simp [State.keep, State.issue]

/-- A good answer after which the checks succeed ends the operation. -/
theorem drive_succeeds (rest : List Input) {v : Value} (hr : s.run = .running op scr acc) (hp : s.pending = some q)
    (ha : goodAnswer q a) (hafter : m.after s.seq (s.answered a) = .done ((s.answered a).succeed v)) :
    drive m (.answer a :: rest) s = .next (ended s s.seq rest [.answered a] (.ok v)) := by
  have hturn : takeTurn m a s = .ended ((s.answered a).succeed v) := by
    rw [takeTurn_goodAnswer m hp ha, hafter, proceed_done]
  rw [drive_ended m a rest s _ hturn, State.answered_eq hr]
  rfl

/-- A transport error ends a straight micro-sequence, whichever bus request it answers. -/
theorem MicroOp.Straight.drive_err (hm : m.Straight) (hp : s.pending = some q) (hq : ∀ n, q ≠ .delayMs n)
    (t : BusErr) (rest : List Input) : drive m (.answer (.err t) :: rest) s =
      .next (ended s s.seq rest [.answered (.err t)] (.err (.busError t))) := by
  refine drive_ended m _ rest s ((s.takeAnswer (.err t)).raise (.busError t)) ?_
  rw [takeTurn_err m hp hq, hm.onErr, proceed_done]

end

/-! ## Acceptance and the order of the requests (R160, R161) -/

/-- `INITIALIZE` goes on or ends with `INIT_STATE` written, if anything (`43_initialize.md` R231). -/
theorem initAfter_cases (checkIdle : Bool) (k : Nat) (s : State) :
    (∃ st, initAfter checkIdle k s = .next (s.setInit st)) ∨
    (∃ st r, initAfter checkIdle k s = .done ((s.setInit st).finish r)) := by
  unfold initAfter
  split
  · unfold afterIdleReadback; split
    · exact .inr ⟨_, _, rfl⟩
    · exact .inl ⟨_, rfl⟩
  · unfold afterPartId; split
    · exact .inl ⟨_, rfl⟩
    · exact .inr ⟨_, _, rfl⟩
  · exact .inl ⟨_, rfl⟩
  · exact .inl ⟨_, rfl⟩
  · unfold afterStandardReadback; split
    · exact .inl ⟨_, rfl⟩
    · exact .inr ⟨_, _, rfl⟩
  · exact .inr ⟨_, _, rfl⟩
  · exact .inl ⟨s.initState, rfl⟩

/-- The checks after an answer leave `SCR` to the operation that goes on with it, or end the operation. -/
theorem after_run (i : Instr) (k : Nat) {s : State} {op : Instr} {scr : List Byte} {acc : Partial}
    (hr : s.run = .running op scr acc) :
    ((microOf i).after k s).Meets (fun s1 => ∃ acc', s1.run = .running op scr acc') (fun s1 => s1.run = .idle) := by
  rcases microOf_cases i with rfl | rfl | ⟨-, hm⟩ | ⟨-, hm⟩
  · change (initAfter checkIdleReadback k s).Meets _ _
    rcases initAfter_cases checkIdleReadback k s with ⟨st, h⟩ | ⟨st, r, h⟩ <;> rw [h]
    · exact ⟨acc, hr⟩
    · rfl
  · rfl
  · rw [hm]
    exact ⟨acc, hr⟩
  · rcases hm.after k s with ⟨-, f, h⟩ | ⟨v, h⟩ <;> rw [h]
    · exact ⟨f acc, s.keep_run f op scr acc hr⟩
    · rfl

/-- One good answer after which the operation still runs. -/
theorem drive_goodAnswer_busy (i : Instr) {s s' : State} {op : Instr} {scr : List Byte} {acc : Partial} {q : Request}
    {a : Answer} (hr : s.run = .running op scr acc) (hp : s.pending = some q) (ha : goodAnswer q a)
    (h : drive (microOf i) [.answer a] s = .next s') (hb : s'.busy = true) :
    s'.seq = s.seq + 1 ∧ ∃ acc', s'.run = .running op (scrAfter a scr) acc' := by
  have hturn := takeTurn_goodAnswer (microOf i) hp ha
  have hrun := after_run i s.seq (s := s.answered a) (by rw [State.answered_eq hr])
  cases hprog : (microOf i).after s.seq (s.answered a) with
  | next s1 =>
    rw [hprog] at hturn hrun
    obtain ⟨-, -, -, -, hseq, hrun1, -⟩ := issueAt_frame (microOf i) (s.seq + 1) s1
    obtain rfl := Host.Outcome.next.inj ((drive_goesOn _ a [] s _ hturn).symm.trans h)
    exact ⟨hseq, hrun.imp fun _ hacc => hrun1.trans hacc⟩
  | done s1 =>
    rw [hprog] at hturn hrun
    obtain rfl := Host.Outcome.next.inj ((drive_ended _ a [] s _ hturn).symm.trans h)
    exact absurd hb (Bool.eq_false_iff.1 ((State.busy_eq_false _).2 hrun))

/-- Settles O49: acceptance writes what `accepted_eq` says and issues request 0; the checks after a good answer leave
`SCR` and go on to the next request of the table exactly if there is one. -/
theorem operationsFollowTheirRequests : Obligations.OperationsFollowTheirRequests := by
  refine ⟨fun i s hp hrel ho hs hin => ?_, fun s s' op scr acc q a hr hq ha hin h hb => ?_,
    fun s op scr acc q a hr hp hi hrel hq ha hin => ?_⟩
  · obtain ⟨r, rs, ht⟩ := List.exists_cons_of_ne_nil fun ht => hrel (eq_release_of_table_nil hp ht)
    refine ⟨toRequest s.devAddr r, requestsOf_getElem?_eq_some.2 ⟨r, by simp [ht], rfl⟩, ?_⟩
    rw [exec_of_accepts ⟨hp, hs.2, ho⟩ hs.1 ht, hin, drive_nil, accepted_eq, ← hin]
    rfl
  · rw [step_running s op scr acc hr, hin] at h
    obtain ⟨hseq, acc', hrun⟩ := drive_goodAnswer_busy op hr hq ha h hb
    exact ⟨State.scr_running s' op _ acc' hrun, hseq, acc', hrun⟩
  · have hm := microOf_endsWithTable hp hi hrel
    rw [step_running s op scr acc hr, hin]
    refine ⟨fun q' hq' => ?_, fun hnone => ?_⟩
    · obtain ⟨r, ht, rfl⟩ := requestsOf_getElem?_eq_some.1 hq'
      obtain ⟨f, hf⟩ := hm.goesOn (List.getElem?_eq_some_iff.1 ht).1 (s.answered a)
      exact ⟨f acc, drive_nextRequest [] hr hq ha hf ht⟩
    · obtain ⟨v, hv⟩ := hm.ends (requestsOf_getElem?_eq_none.1 hnone) (s.answered a)
      exact ⟨v, drive_succeeds [] hr hq ha hv⟩

/-! ## Fail fast (R166) -/

/-- Every transport error but that of the part-ID read ends `INITIALIZE` in `BusFault` (`43_initialize.md` R242). -/
theorem initOnErr_busFault {k : Nat} (hk : k ≠ 4) (t : BusErr) (s : State) :
    initOnErr k t s = .done ((s.setInit .busFault).raise (.busError t)) := by
  unfold initOnErr
  split
  · exact absurd rfl hk
  · rfl

/-- Settles O51: a straight operation raises `BusError`; `INITIALIZE` writes `INIT_STATE` first. -/
theorem transportErrorsFailFast : Obligations.TransportErrorsFailFast := by
  refine ⟨fun s op scr acc q t rest hr hp hi hrel hq hdelay hin => ?_,
    fun s scr acc q t rest hr hk _ hdelay hq hin => ?_⟩
  · rw [step_running s op scr acc hr, hin]
    rcases microOf_cases op with rfl | rfl | ⟨hcodec, -⟩ | ⟨-, hm⟩
    · exact absurd rfl hi
    · exact absurd rfl hrel
    · simp [hp] at hcodec
    · exact hm.drive_err hq hdelay t rest
  · rw [step_running s _ scr acc hr, hin]
    refine drive_ended _ _ rest s (((s.takeAnswer (.err t)).setInit .busFault).raise (.busError t)) ?_
    rw [takeTurn_err _ hq hdelay]
    exact congrArg (proceed _ s.seq) (initOnErr_busFault hk t _)

/-! ## Operations of one request (R162, R165) -/

/-- An operation that has made its first request and ended: the request stands first among its port events. -/
theorem ended_accept_issue (s : State) (i : Instr) (q : Request) (rest : List Input) (es : List Event) (r : Response) :
    ended ((s.accept i).issue q) 0 rest es r = ended s 0 rest (.issued q :: es) r := by
  simp [ended, State.accept, State.issue]

section
variable {i : Instr} {r : MicroReq} {result : State → Value} {s : State} {rest : List Input}

/-- An accepted operation that makes one request and keeps nothing is driven from that request. -/
theorem exec_oneRequest (hm : microOf i = straightLine [r] (fun _ s => s) result) (hacc : Accepts i s)
    (hr : s.run = .idle) : exec i s = drive (straightLine [r] (fun _ s => s) result) s.inputs
      ((s.accept i).issue (toRequest s.devAddr r)) := by
  have haccept : accepted i s = s.accept i := by rw [accepted, hm]; rfl
  rw [exec_of_accepts hacc hr (q := r) (qs := []) (by rw [hm]; rfl), haccept, hm]

/-- Answered well, it responds with its result. -/
theorem exec_oneRequest_succeeds (hm : microOf i = straightLine [r] (fun _ s => s) result) (hacc : Accepts i s)
    (hr : s.run = .idle) {a : Answer} (ha : goodAnswer (toRequest s.devAddr r) a)
    (hin : s.inputs = .answer a :: rest) :
    exec i s = .next (ended s 0 rest [.issued (toRequest s.devAddr r), .answered a]
      (.ok (result (((s.accept i).issue (toRequest s.devAddr r)).answered a)))) := by
  rw [exec_oneRequest hm hacc hr, hin, ← ended_accept_issue]
  exact drive_succeeds rest rfl rfl ha rfl

/-- Answered with a transport error, it responds with that error. -/
theorem exec_oneRequest_fails (hm : microOf i = straightLine [r] (fun _ s => s) result) (hacc : Accepts i s)
    (hr : s.run = .idle) {t : BusErr} (hbus : ∀ n, toRequest s.devAddr r ≠ .delayMs n)
    (hin : s.inputs = .answer (.err t) :: rest) :
    exec i s = .next (ended s 0 rest [.issued (toRequest s.devAddr r), .answered (.err t)]
      (.err (.busError t))) := by
  rw [exec_oneRequest hm hacc hr, hin, ← ended_accept_issue]
  exact (straightLine_straight r [] _ _ fun _ s => ⟨id, s.keep_id.symm⟩).drive_err rfl hbus t rest

end

/-! ## The bus primitives (R162, R165) -/

theorem operandOk_writeCommand (bytes : List Byte) :
    operandOk (.writeCommand bytes) = true ↔ 1 ≤ bytes.length ∧ bytes.length ≤ cmdMaxBytes := by
  simp [operandOk]

theorem operandOk_readRegister (reg n : Byte) :
    operandOk (.readRegister reg n) = true ↔ 1 ≤ n.toNat ∧ n.toNat ≤ rdMaxBytes := by
  simp [operandOk]

theorem microOf_writeCommand (bytes : List Byte) : microOf (.writeCommand bytes) =
    straightLine [writeReg .command bytes] (fun _ s => s) (fun _ => .unit) := rfl

theorem microOf_readRegister (reg n : Byte) : microOf (.readRegister reg n) =
    straightLine [.memRead reg n.toNat] (fun _ s => s) (fun s => .bytes s.scr) := rfl

/-- Settles O30: an operation of one request, a write to `COMMAND`. -/
theorem writeCommandWritesTheCommandRegister : Obligations.WriteCommandWritesTheCommandRegister := by
  have haccepts {s : State} {bytes : List Byte} (hs : accepting s) (hmin : 1 ≤ bytes.length)
      (hmax : bytes.length ≤ cmdMaxBytes) : Accepts (.writeCommand bytes) s :=
    ⟨rfl, hs.2, (operandOk_writeCommand bytes).2 ⟨hmin, hmax⟩⟩
  refine ⟨fun _ => rfl, fun s bytes rest hs hmin hmax hin => ?_, fun s bytes t rest hs hmin hmax hin => ?_,
    fun s bytes hs hbad => ?_, fun s bytes => exec_released rfl⟩
  · exact exec_oneRequest_succeeds (microOf_writeCommand bytes) (haccepts hs hmin hmax) hs.1 rfl hin
  · exact exec_oneRequest_fails (microOf_writeCommand bytes) (haccepts hs hmin hmax) hs.1 (fun _ => nofun) hin
  · exact exec_badOperand rfl hs (by rw [Bool.eq_false_iff, Ne, operandOk_writeCommand]; omega)

/-- Settles O31: an operation of one request, a read of the given address; `SCR` holds the bytes answered. -/
theorem readRegisterForwardsAddressAndBytes : Obligations.ReadRegisterForwardsAddressAndBytes := by
  have haccepts {s : State} {reg n : Byte} (hs : accepting s) (hmin : 1 ≤ n.toNat) (hmax : n.toNat ≤ rdMaxBytes) :
      Accepts (.readRegister reg n) s :=
    ⟨rfl, hs.2, (operandOk_readRegister reg n).2 ⟨hmin, hmax⟩⟩
  refine ⟨fun _ _ => rfl, fun s reg n bs rest hs hmin hmax hlen hin => ?_, fun s reg n t rest hs hmin hmax hin => ?_,
    fun s reg n hs hbad => ?_, fun s reg n => exec_released rfl⟩
  · exact exec_oneRequest_succeeds (microOf_readRegister reg n) (haccepts hs hmin hmax) hs.1 ⟨bs, rfl, hlen⟩ hin
  · exact exec_oneRequest_fails (microOf_readRegister reg n) (haccepts hs hmin hmax) hs.1 (fun _ => nofun) hin
  · exact exec_badOperand rfl hs (by rw [Bool.eq_false_iff, Ne, operandOk_readRegister]; omega)

end Sys2Proof.Machine

/-! PROOFS. The statements of `42_accessors.md`: the single register reads, and the operations of several requests. -/

namespace Sys2Proof.Machine

open Sys2Proof.Safety

/-! ## Bytes read, decoded (`00_scope.md` R11, `40_codec.md` R121) -/

theorem bufU16_eq_u16Of {bs : List Byte} (h : 2 ≤ bs.length) : bufU16 bs = u16Of bs := by
  match bs, h with
  | b0 :: b1 :: _, _ => exact le16_eq_ofNat b0 b1

/-- An operation answered at once has one answer. -/
theorem answeredAtOnce_unique {i : Instr} {v w : Value} (hv : AnsweredAtOnce i v) (hw : AnsweredAtOnce i w) :
    v = w := by
  have h := (hv State.reset rfl).symm.trans (hw State.reset rfl)
  simpa [answeredAtOnce] using h

/-! ## Single register reads (`42_accessors.md` section 2) -/

/-- A register read plus a decode, of any operation whose operands have no domain. -/
theorem singleRead_of_readAndDecode {i : Instr} {r : SensorReg} {f g : List Byte → Value}
    (hm : microOf i = readAndDecode r f) (hp : i.isProtocol = true) (ho : operandOk i = true)
    (hfg : ∀ bs : List Byte, bs.length = regWidth r → f bs = g bs) : SingleRead i (regAddr r) (regWidth r) g := by
  refine ⟨fun s bs rest hs hlen hin => ?_, fun s t rest hs hin => ?_, fun s => exec_released hp⟩
  · rw [← hfg bs hlen]
    exact exec_oneRequest_succeeds hm ⟨hp, hs.2, ho⟩ hs.1 ⟨bs, rfl, hlen⟩ hin
  · exact exec_oneRequest_fails hm ⟨hp, hs.2, ho⟩ hs.1 (fun _ => nofun) hin

/-- A getter of a 16-bit register: `f` is what is made of the little-endian word. -/
theorem singleRead_of_word {i : Instr} {r : SensorReg} {f : U16 → Value}
    (hm : microOf i = readAndDecode r (fun buf => f (bufU16 buf))) (hp : i.isProtocol = true)
    (ho : operandOk i = true) (hw : regWidth r = 2) : SingleRead i (regAddr r) 2 (fun bs => f (u16Of bs)) := by
  have hread : SingleRead i (regAddr r) (regWidth r) (fun bs => f (u16Of bs)) :=
    singleRead_of_readAndDecode hm hp ho fun bs hlen => congrArg f (bufU16_eq_u16Of (hlen.trans hw).ge)
  rwa [hw] at hread

/-- A getter of an 8-bit register: `f` is what is made of its byte. -/
theorem singleRead_of_byte {i : Instr} {r : SensorReg} {f : Byte → Value} {g : List Byte → Value}
    (hm : microOf i = readAndDecode r (fun buf => f (bufByte buf 0))) (hp : i.isProtocol = true)
    (ho : operandOk i = true) (hw : regWidth r = 1) (hfg : ∀ b, f b = g [b]) : SingleRead i (regAddr r) 1 g := by
  have hread : SingleRead i (regAddr r) (regWidth r) g := singleRead_of_readAndDecode hm hp ho fun bs hlen => by
    obtain ⟨b, rfl⟩ := List.length_eq_one_iff.1 (hlen.trans hw)
    exact hfg b
  rwa [hw] at hread

/-- Settles O33: a 16-bit getter of `PART_ID`. -/
theorem getPartIdReadsLittleEndian : Obligations.GetPartIdReadsLittleEndian :=
  ⟨rfl, singleRead_of_word (r := .partId) rfl rfl rfl rfl⟩

/-- Settles O36: three 16-bit getters; `DATA_ETOH` has the address of `DATA_TVOC`. -/
theorem getEco2TvocEtohReadTheirRegisters : Obligations.GetEco2TvocEtohReadTheirRegisters :=
  ⟨rfl, singleRead_of_word (r := .dataEco2) rfl rfl rfl rfl, rfl, singleRead_of_word (r := .dataTvoc) rfl rfl rfl rfl,
    rfl, singleRead_of_word (r := .dataEtoh) rfl rfl rfl rfl⟩

/-- Settles O38: a 16-bit getter whose word goes through the codec. -/
theorem getRawResistanceDecodesItsWord : Obligations.GetRawResistanceDecodesItsWord :=
  ⟨rfl, singleRead_of_word (r := .grpRead6) (f := fun w => .f32 (resistanceDecode w)) rfl rfl rfl rfl⟩

/-- Settles O37: `aqiOf` is the table of the codes 0 to 5. -/
theorem getAirqualityIndexDecodesItsByte : Obligations.GetAirqualityIndexDecodesItsByte := by
  refine ⟨rfl, singleRead_of_byte (r := .dataAqi) (f := fun b => .aqi (aqiOf b)) rfl rfl rfl rfl fun b => ?_⟩
  rcases Nat.lt_or_ge b.toNat 6 with hcode | hcode
  · obtain ⟨k, hk⟩ : ∃ k, b.toNat = k := ⟨_, rfl⟩
    obtain rfl : b = BitVec.ofNat 8 k := by simp [← hk]
    rw [hk] at hcode
    interval_cases k <;> rfl
  · rw [aqiOf_invalidRange hcode]
    congr 1
    split
    case h_7 => rfl
    all_goals simp_all

/-- Settles O39: the value is the answer of `DECODE_STATUS` to the byte read. -/
theorem getStatusDecodesItsByte : Obligations.GetStatusDecodesItsByte :=
  ⟨rfl, singleRead_of_byte (r := .deviceStatus) (f := fun b => .status (statusOf b)) rfl rfl rfl rfl fun b =>
    answeredAtOnce_unique (answeredAtOnce_of_codecOp fun _ => rfl) (decodeStatusUnpacksTheByte b).2⟩

/-- Settles O40: the bytes read are the value. -/
theorem getGroupDataReturnsTheWindow : Obligations.GetGroupDataReturnsTheWindow :=
  ⟨rfl, singleRead_of_readAndDecode (r := .gprRead) rfl rfl rfl fun _ _ => rfl⟩

/-! ## Operations of several requests: the exchanges made so far (`41_bus_primitives.md` R161) -/

/-- The port events of requests and their answers. -/
def exchanges (qas : List (Request × Answer)) : List Event :=
  qas.flatMap fun qa => [.issued qa.1, .answered qa.2]

theorem exchanges_concat (qas : List (Request × Answer)) (q : Request) (a : Answer) :
    exchanges (qas ++ [(q, a)]) = exchanges qas ++ [.issued q, .answered a] := by
  simp [exchanges]

theorem zip_concat_of_getElem? {α β : Type} {qs : List α} {q : α} (as : List β) (a : β)
    (h : qs[as.length]? = some q) : qs.zip (as ++ [a]) = qs.zip as ++ [(q, a)] := by
  induction as generalizing qs with
  | nil => cases qs <;> simp_all
  | cons b as ih =>
    cases qs with
    | nil => simp at h
    | cons p qs => simpa using ih (by simpa using h)

/-- The answers are good answers to the first of the requests. -/
inductive GoodAnswers : List Request → List Answer → Prop where
  | nil (qs : List Request) : GoodAnswers qs []
  | cons {q : Request} {a : Answer} {qs : List Request} {as : List Answer} (ha : goodAnswer q a)
    (has : GoodAnswers qs as) : GoodAnswers (q :: qs) (a :: as)

theorem GoodAnswers.of_concat {qs : List Request} {as : List Answer} {q : Request} {a : Answer}
    (hgood : GoodAnswers qs (as ++ [a])) (hq : qs[as.length]? = some q) : GoodAnswers qs as ∧ goodAnswer q a := by
  induction as generalizing qs with
  | nil =>
    obtain - | ⟨ha, -⟩ := hgood
    obtain rfl := Option.some.inj hq
    exact ⟨.nil _, ha⟩
  | cons b as ih =>
    obtain - | ⟨hb, has⟩ := hgood
    exact (ih has hq).imp_left (.cons hb)

theorem requestsOf_length (dev : Addr7) (i : Instr) : (requestsOf dev i).length = (microOf i).table.length := by
  rw [← microOf_table, List.length_map]

/-- `SCR` and the results decoded after the good answers `as`, where the operation keeps `keeps k scr` of its answer
`k`. -/
def known (keeps : Nat → List Byte → Partial → Partial) (as : List Answer) : List Byte × Partial :=
  as.zipIdx.foldl (fun p ak => (scrAfter ak.1 p.1, keeps ak.2 (scrAfter ak.1 p.1) p.2)) ([], Partial.none)

theorem known_concat (keeps : Nat → List Byte → Partial → Partial) (as : List Answer) (a : Answer) :
    known keeps (as ++ [a]) =
      (scrAfter a (known keeps as).1, keeps as.length (scrAfter a (known keeps as).1) (known keeps as).2) := by
  simp [known, List.zipIdx_append]

/-- A straight micro-sequence that keeps `keeps k scr` of its answer `k` and responds `value scr acc` after the last. -/
structure MicroOp.Computes (m : MicroOp) (keeps : Nat → List Byte → Partial → Partial)
    (value : List Byte → Partial → Value) : Prop where
  straight : m.Straight
  goesOn : ∀ {k : Nat}, k + 1 < m.table.length → ∀ s, m.after k s = .next (s.keep (keeps k s.scr))
  ends : ∀ {k : Nat}, m.table.length ≤ k + 1 → ∀ s,
    m.after k s = .done (s.succeed (value s.scr s.partialResults))

theorem straightLine_computes {q : MicroReq} {qs : List MicroReq} {between : Nat → State → State}
    {result : State → Value} {keeps : Nat → List Byte → Partial → Partial} {value : List Byte → Partial → Value}
    (hbetween : ∀ k s, between k s = s.keep (keeps k s.scr)) (hresult : ∀ s, result s = value s.scr s.partialResults) :
    (straightLine (q :: qs) between result).Computes keeps value where
  straight := straightLine_straight q qs between result fun k s => ⟨keeps k s.scr, hbetween k s⟩
  goesOn {k} hk s := (if_pos hk).trans (congrArg Progress.next (hbetween k s))
  ends hk s := (if_neg (Nat.not_lt.2 hk)).trans (congrArg (fun v => Progress.done (s.succeed v)) (hresult s))

/-- Of an operation that keeps nothing: its result is made of the last bytes read alone. -/
theorem computes_of_scr {m : MicroOp} {q : MicroReq} {qs : List MicroReq} {value : List Byte → Value}
    (hm : m = straightLine (q :: qs) (fun _ s => s) (fun s => value s.scr)) :
    m.Computes (fun _ _ => id) (fun scr _ => value scr) :=
  hm ▸ straightLine_computes (fun _ s => s.keep_id.symm) fun _ => rfl

/-- Operation `i`, begun in `s` and answered with `as` so far, waits for the answer to request `q`. -/
def State.awaiting (s : State) (i : Instr) (keeps : Nat → List Byte → Partial → Partial) (as : List Answer)
    (q : Request) : State :=
  { s with
    seq := as.length
    run := .running i (known keeps as).1 (known keeps as).2
    pending := some q
    trace := s.trace ++ exchanges ((requestsOf s.devAddr i).zip as) ++ [.issued q] }

section
variable {i : Instr} {keeps : Nat → List Byte → Partial → Partial} {value : List Byte → Partial → Value} {s : State}
  {as : List Answer} {q : Request} {rest : List Input}

/-- Ending then is ending with one exchange more. -/
theorem ended_awaiting (hq : (requestsOf s.devAddr i)[as.length]? = some q) (a : Answer) (r : Response) :
    ended (s.awaiting i keeps as q) as.length rest [.answered a] r =
      ended s as.length rest (exchanges ((requestsOf s.devAddr i).zip (as ++ [a]))) r := by
  simp [ended, State.awaiting, zip_concat_of_getElem? as a hq, exchanges_concat]

/-- A good answer leads to the next request. -/
theorem drive_awaiting (hm : (microOf i).Computes keeps value) (hq : (requestsOf s.devAddr i)[as.length]? = some q)
    {q' : Request} (hq' : (requestsOf s.devAddr i)[as.length + 1]? = some q') {a : Answer} (ha : goodAnswer q a) :
    drive (microOf i) (.answer a :: rest) (s.awaiting i keeps as q) =
      drive (microOf i) rest (s.awaiting i keeps (as ++ [a]) q') := by
  obtain ⟨r, ht, rfl⟩ := requestsOf_getElem?_eq_some.1 hq'
  have hafter := hm.goesOn (List.getElem?_eq_some_iff.1 ht).1 ((s.awaiting i keeps as q).answered a)
  rw [drive_nextRequest rest rfl rfl ha hafter ht, State.answered_eq rfl]
  simp [State.awaiting, State.scr, known_concat, zip_concat_of_getElem? as a hq, exchanges_concat]

/-- The good answers `as` lead an accepted operation to the request after them. -/
theorem exec_reaches (hm : (microOf i).Computes keeps value) (hacc : Accepts i s) (hr : s.run = .idle)
    (hq : (requestsOf s.devAddr i)[as.length]? = some q)
    (hgood : GoodAnswers (requestsOf s.devAddr i) as)
    (hin : s.inputs = as.map .answer ++ rest) :
    exec i s = drive (microOf i) rest (s.awaiting i keeps as q) := by
  induction as using List.reverseRecOn generalizing q rest with
  | nil =>
    obtain ⟨r, ht, rfl⟩ := requestsOf_getElem?_eq_some.1 hq
    obtain ⟨rs, htable⟩ := List.head?_eq_some_iff.1 (List.head?_eq_getElem?.trans ht)
    have haccept : accepted i s = s.accept i := hm.straight.onAccept _
    rw [exec_of_accepts hacc hr htable, hin, haccept]
    simp [State.awaiting, State.accept, State.issue, known, exchanges]
  | append_singleton as a ih =>
    rw [List.length_append] at hq
    obtain ⟨q0, hq0⟩ : ∃ q0, (requestsOf s.devAddr i)[as.length]? = some q0 :=
      ⟨_, List.getElem?_eq_getElem (Nat.lt_of_succ_lt (List.getElem?_eq_some_iff.1 hq).1)⟩
    obtain ⟨hinit, ha⟩ := hgood.of_concat hq0
    rw [ih hq0 hinit (by simpa using hin), drive_awaiting hm hq0 hq ha]

/-- Answered well to the end, an operation responds with its value (R160 (3)). -/
theorem exec_succeeds (hm : (microOf i).Computes keeps value) (hacc : Accepts i s) (hr : s.run = .idle) {a : Answer}
    (hlast : (requestsOf s.devAddr i).length = as.length + 1)
    (hgood : GoodAnswers (requestsOf s.devAddr i) (as ++ [a]))
    (hin : s.inputs = as.map .answer ++ .answer a :: rest) :
    exec i s = .next (ended s as.length rest (exchanges ((requestsOf s.devAddr i).zip (as ++ [a])))
      (.ok (value (scrAfter a (known keeps as).1) (known keeps as).2))) := by
  obtain ⟨q, hq⟩ : ∃ q, (requestsOf s.devAddr i)[as.length]? = some q :=
    ⟨_, List.getElem?_eq_getElem (hlast ▸ as.length.lt_succ_self)⟩
  obtain ⟨hinit, ha⟩ := hgood.of_concat hq
  have hend := hm.ends (k := as.length) (by rw [← hlast, requestsOf_length]) ((s.awaiting i keeps as q).answered a)
  rw [exec_reaches hm hacc hr hq hinit hin, ← ended_awaiting hq, drive_succeeds rest rfl rfl ha hend,
    State.answered_eq rfl]
  rfl

/-- A transport error on any bus request ends an operation at this request (R166). -/
theorem exec_failsFast (hm : (microOf i).Computes keeps value) (hacc : Accepts i s) (hr : s.run = .idle) {t : BusErr}
    (hq : (requestsOf s.devAddr i)[as.length]? = some q) (hbus : ∀ n, q ≠ .delayMs n)
    (hgood : GoodAnswers (requestsOf s.devAddr i) as)
    (hin : s.inputs = as.map .answer ++ .answer (.err t) :: rest) :
    exec i s = .next (ended s as.length rest (exchanges ((requestsOf s.devAddr i).zip (as ++ [.err t])))
      (.err (.busError t))) := by
  rw [exec_reaches hm hacc hr hq hgood hin, ← ended_awaiting hq]
  exact hm.straight.drive_err rfl hbus t rest

end

/-! ## The operations of several requests (`42_accessors.md` R180 to R211) -/

theorem operandOk_setOperationMode (mode : Byte) :
    operandOk (.setOperationMode mode) = true ↔ mode ∈ [0x00#8, 0x01#8, 0x02#8, 0xF0#8] := by
  simp only [operandOk, isNamedMode, Bool.or_eq_true, decide_eq_true_eq, List.mem_cons, List.not_mem_nil, or_false,
    or_assoc]
  rfl

/-- Settles O32: three exchanges, the second a delay, which cannot fail. -/
theorem setOperationModeWritesWaitsReadsBack : Obligations.SetOperationModeWritesWaitsReadsBack := by
  have hm (mode : Byte) := computes_of_scr (m := microOf (.setOperationMode mode))
    (value := fun scr => .mode (bufByte scr 0)) rfl
  have haccepts {s : State} {mode : Byte} (hs : accepting s) (hmode : mode ∈ [0x00#8, 0x01#8, 0x02#8, 0xF0#8]) :
      Accepts (.setOperationMode mode) s := ⟨rfl, hs.2, (operandOk_setOperationMode mode).2 hmode⟩
  refine ⟨fun _ => rfl, fun s mode m rest hs hmode hin => ?_, fun s mode t rest hs hmode hin => ?_,
    fun s mode t rest hs hmode hin => ?_, fun s mode hs hbad => ?_, fun s mode => exec_released rfl⟩
  · exact exec_succeeds (as := [.wrote, .elapsed]) (hm mode) (haccepts hs hmode) hs.1 rfl
      (.cons rfl (.cons rfl (.cons ⟨_, rfl, rfl⟩ (.nil _)))) hin
  · exact exec_failsFast (as := []) (hm mode) (haccepts hs hmode) hs.1 rfl (fun _ => nofun) (.nil _) hin
  · exact exec_failsFast (as := [.wrote, .elapsed]) (hm mode) (haccepts hs hmode) hs.1 rfl (fun _ => nofun)
      (.cons rfl (.cons rfl (.nil _))) hin
  · exact exec_badOperand rfl hs (Bool.eq_false_iff.2 (mt (operandOk_setOperationMode mode).1 hbad))

/-- Settles O34: two exchanges; the version is in the bytes of the second. -/
theorem getFirmwareVersionReadsBytes4To6 : Obligations.GetFirmwareVersionReadsBytes4To6 := by
  have hm := computes_of_scr (m := microOf .getFirmwareVersion)
    (value := fun scr => .version (bufByte scr 4) (bufByte scr 5) (bufByte scr 6)) rfl
  refine ⟨rfl, fun s b0 b1 b2 b3 b4 b5 b6 b7 rest hs hin => ?_, fun s t rest hs hin => ?_,
    fun s t rest hs hin => ?_, fun s => exec_released rfl⟩
  · exact exec_succeeds (as := [.wrote]) hm ⟨rfl, hs.2, rfl⟩ hs.1 rfl (.cons rfl (.cons ⟨_, rfl, rfl⟩ (.nil _))) hin
  · exact exec_failsFast (as := []) hm ⟨rfl, hs.2, rfl⟩ hs.1 rfl (fun _ => nofun) (.nil _) hin
  · exact exec_failsFast (as := [.wrote]) hm ⟨rfl, hs.2, rfl⟩ hs.1 rfl (fun _ => nofun) (.cons rfl (.nil _)) hin

/-- Settles O35: two exchanges, both writes. -/
theorem clearCommandWritesNopThenClear : Obligations.ClearCommandWritesNopThenClear := by
  have hm := computes_of_scr (m := microOf .clearCommand) (value := fun _ => .unit) rfl
  refine ⟨rfl, fun s rest hs hin => ?_, fun s t rest hs hin => ?_, fun s t rest hs hin => ?_,
    fun s => exec_released rfl⟩
  · exact exec_succeeds (as := [.wrote]) hm ⟨rfl, hs.2, rfl⟩ hs.1 rfl (.cons rfl (.cons rfl (.nil _))) hin
  · exact exec_failsFast (as := []) hm ⟨rfl, hs.2, rfl⟩ hs.1 rfl (fun _ => nofun) (.nil _) hin
  · exact exec_failsFast (as := [.wrote]) hm ⟨rfl, hs.2, rfl⟩ hs.1 rfl (fun _ => nofun) (.cons rfl (.nil _)) hin

/-- Settles O41: two exchanges, both writes, their bytes as the table of the operation's requests has them. -/
theorem setTempRhCompWritesBothRegisters : Obligations.SetTempRhCompWritesBothRegisters := by
  have hm (c : F32) (rh : U16) := computes_of_scr (m := microOf (.setTempRhComp c rh)) (value := fun _ => .unit) rfl
  refine ⟨fun _ _ => ⟨rfl, rfl⟩, fun s c rh rest hs hin => ?_, fun s c rh t rest hs hin => ?_,
    fun s c rh t rest hs hin => ?_, fun s c rh => exec_released rfl⟩
  · exact exec_succeeds (as := [.wrote]) (hm c rh) ⟨rfl, hs.2, rfl⟩ hs.1 rfl (.cons rfl (.cons rfl (.nil _))) hin
  · exact exec_failsFast (as := []) (hm c rh) ⟨rfl, hs.2, rfl⟩ hs.1 rfl (fun _ => nofun) (.nil _) hin
  · exact exec_failsFast (as := [.wrote]) (hm c rh) ⟨rfl, hs.2, rfl⟩ hs.1 rfl (fun _ => nofun)
      (.cons rfl (.nil _)) hin

/-- Settles O42: two exchanges; the temperature of the first is kept for the result. -/
theorem getTempRhCompReadsBothRegisters : Obligations.GetTempRhCompReadsBothRegisters := by
  have hm : (microOf .getTempRhComp).Computes (fun _ scr p => { p with celsius := tempDecode (bufU16 scr) })
      (fun scr acc => .tempRh acc.celsius (bufU16 scr)) := straightLine_computes (fun _ _ => rfl) fun _ => rfl
  refine ⟨rfl, fun s a0 a1 b0 b1 rest hs hin => ?_, fun s t rest hs hin => ?_, fun s a0 a1 t rest hs hin => ?_,
    fun s => exec_released rfl⟩
  · simp only [← bufU16_eq_u16Of (bs := [_, _]) le_rfl]
    exact exec_succeeds (as := [.data [a0, a1]]) hm ⟨rfl, hs.2, rfl⟩ hs.1 rfl
      (.cons ⟨_, rfl, rfl⟩ (.cons ⟨_, rfl, rfl⟩ (.nil _))) hin
  · exact exec_failsFast (as := []) hm ⟨rfl, hs.2, rfl⟩ hs.1 rfl (fun _ => nofun) (.nil _) hin
  · exact exec_failsFast (as := [.data [a0, a1]]) hm ⟨rfl, hs.2, rfl⟩ hs.1 rfl (fun _ => nofun)
      (.cons ⟨_, rfl, rfl⟩ (.nil _)) hin

/-- Settles O43: two exchanges; the value is the byte of the second, whatever the first wrote. -/
theorem configInterruptPinWritesAndReadsBack : Obligations.ConfigInterruptPinWritesAndReadsBack := by
  have hm (config : Byte) := computes_of_scr (m := microOf (.configInterruptPin config))
    (value := fun scr => .u8 (bufByte scr 0)) rfl
  refine ⟨fun _ => rfl, fun s config b rest hs hin => ?_, fun s config t rest hs hin => ?_,
    fun s config t rest hs hin => ?_, fun s config => exec_released rfl⟩
  · exact exec_succeeds (as := [.wrote]) (hm config) ⟨rfl, hs.2, rfl⟩ hs.1 rfl
      (.cons rfl (.cons ⟨_, rfl, rfl⟩ (.nil _))) hin
  · exact exec_failsFast (as := []) (hm config) ⟨rfl, hs.2, rfl⟩ hs.1 rfl (fun _ => nofun) (.nil _) hin
  · exact exec_failsFast (as := [.wrote]) (hm config) ⟨rfl, hs.2, rfl⟩ hs.1 rfl (fun _ => nofun)
      (.cons rfl (.nil _)) hin

/-- What `GET_MEASUREMENTS` keeps of the bytes of its read `k` (`42_accessors.md` R210). -/
def measurementKept (k : Nat) (scr : List Byte) (p : Partial) : Partial :=
  match k with
  | 0 => { p with co2eqPpm := bufU16 scr }
  | 1 => { p with tvocPpb := bufU16 scr }
  | 2 => { p with airQualityIndex := aqiOf (bufByte scr 0) }
  | _ => { p with etoh := bufU16 scr }

theorem keepMeasurement_eq (k : Nat) (s : State) : keepMeasurement k s = s.keep (measurementKept k s.scr) := by
  match k with
  | 0 | 1 | 2 | _ + 3 => rfl

theorem microGetMeasurements_computes : (microOf .getMeasurements).Computes measurementKept
    (fun scr acc => .measurements
      ⟨acc.co2eqPpm, acc.tvocPpb, acc.airQualityIndex, acc.etoh, resistanceDecode (bufU16 scr)⟩) :=
  straightLine_computes keepMeasurement_eq fun _ => rfl

/-- Settles O44: five exchanges; what the first four read is kept for the record. -/
theorem getMeasurementsReadsFiveRegisters : Obligations.GetMeasurementsReadsFiveRegisters := by
  have hm := microGetMeasurements_computes
  refine ⟨rfl, fun s a0 a1 b0 b1 c d0 d1 e0 e1 rest hs hin => ?_, fun s t rest hs hin => ?_,
    fun s a0 a1 t rest hs hin => ?_, fun s a0 a1 b0 b1 t rest hs hin => ?_,
    fun s a0 a1 b0 b1 c t rest hs hin => ?_, fun s a0 a1 b0 b1 c d0 d1 t rest hs hin => ?_,
    fun s => exec_released rfl⟩
  · simp only [← bufU16_eq_u16Of (bs := [_, _]) le_rfl]
    exact exec_succeeds (as := [.data [a0, a1], .data [b0, b1], .data [c], .data [d0, d1]]) hm ⟨rfl, hs.2, rfl⟩ hs.1
      rfl (.cons ⟨_, rfl, rfl⟩ (.cons ⟨_, rfl, rfl⟩ (.cons ⟨_, rfl, rfl⟩ (.cons ⟨_, rfl, rfl⟩
        (.cons ⟨_, rfl, rfl⟩ (.nil _)))))) hin
  · exact exec_failsFast (as := []) hm ⟨rfl, hs.2, rfl⟩ hs.1 rfl (fun _ => nofun) (.nil _) hin
  · exact exec_failsFast (as := [.data [a0, a1]]) hm ⟨rfl, hs.2, rfl⟩ hs.1 rfl (fun _ => nofun)
      (.cons ⟨_, rfl, rfl⟩ (.nil _)) hin
  · exact exec_failsFast (as := [.data [a0, a1], .data [b0, b1]]) hm ⟨rfl, hs.2, rfl⟩ hs.1 rfl (fun _ => nofun)
      (.cons ⟨_, rfl, rfl⟩ (.cons ⟨_, rfl, rfl⟩ (.nil _))) hin
  · exact exec_failsFast (as := [.data [a0, a1], .data [b0, b1], .data [c]]) hm ⟨rfl, hs.2, rfl⟩ hs.1 rfl
      (fun _ => nofun) (.cons ⟨_, rfl, rfl⟩ (.cons ⟨_, rfl, rfl⟩ (.cons ⟨_, rfl, rfl⟩ (.nil _)))) hin
  · exact exec_failsFast (as := [.data [a0, a1], .data [b0, b1], .data [c], .data [d0, d1]]) hm ⟨rfl, hs.2, rfl⟩ hs.1
      rfl (fun _ => nofun) (.cons ⟨_, rfl, rfl⟩ (.cons ⟨_, rfl, rfl⟩ (.cons ⟨_, rfl, rfl⟩ (.cons ⟨_, rfl, rfl⟩
        (.nil _))))) hin

end Sys2Proof.Machine

/-! PROOFS. The statements of `43_initialize.md`: `INITIALIZE` row by row, its four ends, and `RELEASE`. -/

namespace Sys2Proof.Machine

open Sys2Proof.Safety

/-! ## The checks of `INITIALIZE` (R231, R236, R239) -/

/-- With the expected part ID at `SEQ` 4 and Standard at `SEQ` 15, the checks of every row but the last go on, and write
the `INIT_STATE` of the next row. -/
theorem initAfter_goesOn {k : Nat} {s : State} (hk : k < 18) (hst : s.initState = initStateAt k)
    (hid : k = 4 → s.scr = [0x60, 0x01]) (hmode : k = 15 → s.scr = [0x02]) :
    initAfter checkIdleReadback k s = .next (s.setInit (initStateAt (k + 1))) := by
  unfold initAfter
  split
  · rfl
  · exact if_pos (by rw [hid rfl]; rfl)
  · rfl
  · rfl
  · exact if_pos (by rw [hmode rfl]; rfl)
  · exact absurd hk (Nat.lt_irrefl 18)
  case h_7 h2 h4 h9 h11 h15 h18 =>
    rw [← initStateAt_succ h2 h4 h9 h11 h15, ← hst]
    rfl

theorem initAfter_partId_mismatch {s : State} (h : bufU16 s.scr ≠ 0x0160) : initAfter checkIdleReadback 4 s =
    .done ((s.setInit .chipIdMismatch).raise (.unexpectedChipId (bufU16 s.scr))) :=
  if_neg h

theorem initAfter_standard_mismatch {s : State} (h : bufByte s.scr 0 ≠ 0x02) : initAfter checkIdleReadback 15 s =
    .done ((s.setInit .modeMismatch).raise (.opModeNotCorrect (bufByte s.scr 0))) :=
  if_neg h

/-! ## One row of the table (R231, R243) -/

/-- A good answer to any request but the last issues the next one, with the `INIT_STATE` of its row. -/
theorem drive_initialize_nextRequest {s : State} {op : Instr} {scr : List Byte} {acc : Partial} {q q' : Request}
    {a : Answer} (rest : List Input) (hr : s.run = .running op scr acc) (hst : s.initState = initStateAt s.seq)
    (hq' : (initRequests s.devAddr)[s.seq + 1]? = some q') (hp : s.pending = some q)
    (ha : initGoodAnswer s.seq q a) :
    drive (microOf .initializeSensor) (.answer a :: rest) s = drive (microOf .initializeSensor) rest { s with
      initState := initStateAt (s.seq + 1)
      seq := s.seq + 1
      run := .running op (scrAfter a scr) acc
      pending := some q'
      trace := s.trace ++ [.answered a, .issued q'] } := by
  obtain ⟨hgood, hid, hmode⟩ := ha
  obtain ⟨r, ht, rfl⟩ := (requestsOf_getElem?_eq_some (i := .initializeSensor)).1 hq'
  have hk : s.seq < 18 := Nat.lt_of_succ_lt_succ (List.getElem?_eq_some_iff.1 ht).1
  have hscr : (s.answered a).scr = scrAfter a scr := by rw [State.answered_eq hr]; rfl
  have hafter : (microOf .initializeSensor).after s.seq (s.answered a) =
      .next ((s.answered a).setInit (initStateAt (s.seq + 1))) :=
    initAfter_goesOn hk (by rw [State.answered_eq hr]; exact hst) (fun h => by rw [hscr, hid h]; rfl)
      (fun h => by rw [hscr, hmode h]; rfl)
  refine drive_goesOn _ a rest s _ ?_
  rw [takeTurn_goodAnswer _ hp hgood, hafter, proceed_next, issueAt_some _ _ _ r ht, State.answered_eq hr]
  simp [State.setInit, State.issue]

/-- Settles O50: acceptance as for every operation, and then one row. -/
theorem initializeFollowsItsTable : Obligations.InitializeFollowsItsTable := by
  refine ⟨fun s hs hin => ?_, fun s scr acc q q' a hr hst _ hq' hp ha hin => ?_⟩
  · obtain ⟨q, hq, hexec⟩ := operationsFollowTheirRequests.1 .initializeSensor s rfl nofun rfl hs hin
    obtain rfl := Option.some.inj hq
    exact hexec
  · rw [step_running s _ scr acc hr, hin, drive_initialize_nextRequest [] hr hst hq' hp ha, drive_nil]

/-! ## Several rows: from acceptance to the request after the good answers -/

/-- Good answers to the first requests of `INITIALIZE`, those at `SEQ` 4 and 15 with the values it compares with. -/
structure InitGoodAnswers (dev : Addr7) (as : List Answer) : Prop where
  good : GoodAnswers (initRequests dev) as
  partId : ∀ a, as[4]? = some a → a = .data [0x60, 0x01]
  standard : ∀ a, as[15]? = some a → a = .data [0x02]

theorem InitGoodAnswers.of_concat {dev : Addr7} {as : List Answer} {a : Answer} {q : Request}
    (h : InitGoodAnswers dev (as ++ [a])) (hq : (initRequests dev)[as.length]? = some q) :
    InitGoodAnswers dev as ∧ initGoodAnswer as.length q a := by
  obtain ⟨hinit, ha⟩ := h.good.of_concat hq
  have hmore {k : Nat} {b : Answer} (hb : as[k]? = some b) : (as ++ [a])[k]? = some b := by
    rw [List.getElem?_append_left (List.getElem?_eq_some_iff.1 hb).1, hb]
  exact ⟨⟨hinit, fun b hb => h.partId b (hmore hb), fun b hb => h.standard b (hmore hb)⟩,
    ha, fun hk => h.partId a (by simp [← hk]), fun hk => h.standard a (by simp [← hk])⟩

/-- `INITIALIZE`, begun in `s` and answered with `as` so far, waits for the answer to request `q`, with the `INIT_STATE`
of that request's row; it keeps no results. -/
def State.awaitingInit (s : State) (as : List Answer) (q : Request) : State :=
  { s with initState := initStateAt as.length }.awaiting .initializeSensor (fun _ _ => id) as q

section
variable {s : State} {as : List Answer} {q : Request} {a : Answer} {rest : List Input}

/-- A good answer leads to the next row. -/
theorem drive_awaitingInit (hq : (initRequests s.devAddr)[as.length]? = some q) {q' : Request}
    (hq' : (initRequests s.devAddr)[as.length + 1]? = some q') (ha : initGoodAnswer as.length q a) :
    drive (microOf .initializeSensor) (.answer a :: rest) (s.awaitingInit as q) =
      drive (microOf .initializeSensor) rest (s.awaitingInit (as ++ [a]) q') := by
  have hzip := zip_concat_of_getElem? as a (qs := requestsOf s.devAddr .initializeSensor) hq
  rw [drive_initialize_nextRequest rest rfl rfl hq' rfl ha]
  simp [State.awaitingInit, State.awaiting, known_concat, hzip, exchanges_concat]

/-- Good answers lead an accepted `INITIALIZE` to the request after them. -/
theorem exec_initialize_reaches (hs : accepting s) (hgood : InitGoodAnswers s.devAddr as)
    (hq : (initRequests s.devAddr)[as.length]? = some q) (hin : s.inputs = as.map .answer ++ rest) :
    exec .initializeSensor s = drive (microOf .initializeSensor) rest (s.awaitingInit as q) := by
  induction as using List.reverseRecOn generalizing q rest with
  | nil =>
    obtain ⟨r, ht, rfl⟩ := (requestsOf_getElem?_eq_some (i := .initializeSensor)).1 hq
    obtain ⟨rs, htable⟩ := List.head?_eq_some_iff.1 (List.head?_eq_getElem?.trans ht)
    rw [exec_of_accepts ⟨rfl, hs.2, rfl⟩ hs.1 htable, hin, accepted_eq]
    simp [State.awaitingInit, State.awaiting, State.issue, known, exchanges, initStateAt]
  | append_singleton as a ih =>
    rw [List.length_append] at hq
    obtain ⟨q0, hq0⟩ : ∃ q0, (initRequests s.devAddr)[as.length]? = some q0 :=
      ⟨_, List.getElem?_eq_getElem (Nat.lt_of_succ_lt (List.getElem?_eq_some_iff.1 hq).1)⟩
    obtain ⟨hinit, ha⟩ := hgood.of_concat hq0
    rw [ih hinit hq0 (by simpa using hin), drive_awaitingInit hq0 hq ha]

/-! ## The ends of `INITIALIZE` (R230, R236, R239, R241) -/

/-- An answer after which `INITIALIZE` ends: `INIT_STATE` is written and the response sent. -/
theorem exec_initialize_ends (hs : accepting s) (hgood : InitGoodAnswers s.devAddr as)
    (hq : (initRequests s.devAddr)[as.length]? = some q) (hin : s.inputs = as.map .answer ++ .answer a :: rest)
    {st : InitState} {r : Response} (hturn : takeTurn (microOf .initializeSensor) a (s.awaitingInit as q) =
      .ended ((((s.awaitingInit as q).answered a).setInit st).finish r)) :
    exec .initializeSensor s = .next (ended { s with initState := st } as.length rest
      (exchanges ((initRequests s.devAddr).zip (as ++ [a]))) r) := by
  have hends : ended { s.awaitingInit as q with initState := st } as.length rest [.answered a] r =
      ended { s with initState := st } as.length rest (exchanges ((initRequests s.devAddr).zip (as ++ [a]))) r :=
    ended_awaiting (i := .initializeSensor) (s := { s with initState := st }) hq a r
  rw [exec_initialize_reaches hs hgood hq hin, drive_ended _ a rest _ _ hturn, ← hends, State.answered_eq rfl]
  rfl

/-- In particular a good answer with which the checks do not go on. -/
theorem exec_initialize_ends_of_goodAnswer (hs : accepting s) (hgood : InitGoodAnswers s.devAddr as)
    (hq : (initRequests s.devAddr)[as.length]? = some q) (hin : s.inputs = as.map .answer ++ .answer a :: rest)
    (ha : goodAnswer q a) {st : InitState} {r : Response}
    (hafter : ∀ t : State, t.scr = scrAfter a (known (fun _ _ => id) as).1 →
      initAfter checkIdleReadback as.length t = .done ((t.setInit st).finish r)) :
    exec .initializeSensor s = .next (ended { s with initState := st } as.length rest
      (exchanges ((initRequests s.devAddr).zip (as ++ [a]))) r) := by
  refine exec_initialize_ends hs hgood hq hin ?_
  rw [takeTurn_goodAnswer _ rfl ha]
  exact congrArg (proceed _ _) (hafter _ (by rw [State.answered_eq rfl]; rfl))

end

/-! ## The statements on `INITIALIZE`: the answers before the request that ends it -/

theorem GoodAnswers.append {qs : List Request} {as bs : List Answer} (has : GoodAnswers qs as)
    (hbs : GoodAnswers (qs.drop as.length) bs) : GoodAnswers qs (as ++ bs) := by
  induction has with
  | nil => exact hbs
  | cons ha _ ih => exact .cons ha (ih hbs)

/-- The good answers to the requests before the part-ID read. -/
def answersBeforePartId (m1 s1 : Byte) : List Answer := [.wrote, .elapsed, .data [m1], .data [s1]]

/-- The good answers to the requests before the Standard read-back. -/
def answersBeforeStandard (m1 s1 s2 : Byte) (fw : List Byte) : List Answer :=
  answersBeforePartId m1 s1 ++ [.data [0x60, 0x01], .elapsed, .wrote, .wrote, .elapsed, .data [s2], .wrote, .data fw,
    .elapsed, .wrote, .elapsed]

/-- The good answers to the requests before the last. -/
def answersBeforeLast (m1 s1 s2 s3 : Byte) (fw : List Byte) : List Answer :=
  answersBeforeStandard m1 s1 s2 fw ++ [.data [0x02], .elapsed, .data [s3]]

theorem initGoodAnswers_beforePartId (dev : Addr7) (m1 s1 : Byte) :
    InitGoodAnswers dev (answersBeforePartId m1 s1) where
  good := .cons rfl (.cons rfl (.cons ⟨_, rfl, rfl⟩ (.cons ⟨_, rfl, rfl⟩ (.nil _))))
  partId := nofun
  standard := nofun

theorem initGoodAnswers_beforeStandard (dev : Addr7) (m1 s1 s2 : Byte) {fw : List Byte} (hfw : fw.length = 8) :
    InitGoodAnswers dev (answersBeforeStandard m1 s1 s2 fw) where
  good := (initGoodAnswers_beforePartId dev m1 s1).good.append
    (.cons ⟨_, rfl, rfl⟩ (.cons rfl (.cons rfl (.cons rfl (.cons rfl (.cons ⟨_, rfl, rfl⟩ (.cons rfl
      (.cons ⟨_, rfl, hfw⟩ (.cons rfl (.cons rfl (.cons rfl (.nil _))))))))))))
  partId _ h := (Option.some.inj h).symm
  standard := nofun

theorem initGoodAnswers_beforeLast (dev : Addr7) (m1 s1 s2 s3 : Byte) {fw : List Byte} (hfw : fw.length = 8) :
    InitGoodAnswers dev (answersBeforeLast m1 s1 s2 s3 fw) where
  good := (initGoodAnswers_beforeStandard dev m1 s1 s2 hfw).good.append
    (.cons ⟨_, rfl, rfl⟩ (.cons rfl (.cons ⟨_, rfl, rfl⟩ (.nil _))))
  partId _ h := (Option.some.inj h).symm
  standard _ h := (Option.some.inj h).symm

/-- Settles O45: the checks after the last of the nineteen requests succeed, whatever it read. -/
theorem initializeSucceeds : Obligations.InitializeSucceeds := fun s m1 s1 s2 s3 m2 _ _ hs hfw hin =>
  exec_initialize_ends_of_goodAnswer hs (initGoodAnswers_beforeLast s.devAddr m1 s1 s2 s3 hfw) rfl hin
    ⟨[m2], rfl, rfl⟩ fun _ _ => rfl

/-- Settles O46: the part-ID check finds another value. -/
theorem initializeRejectsAnotherChip : Obligations.InitializeRejectsAnotherChip :=
  fun s m1 s1 b0 b1 _ hs hid hin => by
  have hword : bufU16 [b0, b1] = u16Of [b0, b1] := bufU16_eq_u16Of le_rfl
  refine exec_initialize_ends_of_goodAnswer hs (initGoodAnswers_beforePartId s.devAddr m1 s1) rfl hin
    ⟨[b0, b1], rfl, rfl⟩ fun t (hscr : t.scr = [b0, b1]) => ?_
  rw [← hword, ← hscr] at hid ⊢
  exact initAfter_partId_mismatch hid

/-- Settles O47: the transport error at `SEQ` 4 is caught. -/
theorem initializeUnreachableAnswersFalse : Obligations.InitializeUnreachableAnswersFalse :=
  fun s m1 s1 t _ hs hin =>
  exec_initialize_ends hs (initGoodAnswers_beforePartId s.devAddr m1 s1) rfl hin
    (takeTurn_err _ (q := .busWriteRead s.devAddr [0x00] 2) rfl (fun _ => nofun) t)

/-- Settles O48: the Standard check finds another byte. -/
theorem initializeRejectsAnotherMode : Obligations.InitializeRejectsAnotherMode :=
  fun s m1 s1 s2 m _ _ hs hfw hm hin => by
  refine exec_initialize_ends_of_goodAnswer hs (initGoodAnswers_beforeStandard s.devAddr m1 s1 s2 hfw) rfl hin
    ⟨[m], rfl, rfl⟩ fun t (hscr : t.scr = [m]) => ?_
  have hbyte : bufByte t.scr 0 = m := by rw [hscr]; rfl
  rw [← hbyte] at hm ⊢
  exact initAfter_standard_mismatch hm

/-! ## `RELEASE` (R245) -/

/-- Settles O52: an operation without requests ends as it is launched; after it every protocol operation is refused. -/
theorem releaseGivesUpThePorts : Obligations.ReleaseGivesUpThePorts := by
  refine ⟨rfl, fun s hs => ?_, fun s => exec_released rfl⟩
  have hlaunch : exec .release s = launch microRelease (s.accept .release) :=
    protocolOp_accepted .release microRelease s hs.1 hs.2 rfl
  rw [hlaunch]
  simp [launch, microRelease, State.accept, State.succeed, State.finish, ended]

end Sys2Proof.Machine

/-! PROOFS. The statements of `60_exceptions.md`: what is refused, the offers a busy block holds, and the operation held
at a request that is not answered. -/

namespace Sys2Proof.Machine

open Sys2Proof.Safety

/-! ## Refusals (R280, R281) -/

/-- Settles O53: the refusal comes before the operands are looked at. -/
theorem releasedBlockRefusesProtocol : Obligations.ReleasedBlockRefusesProtocol := fun _ _ hp hr hl =>
  exec_released hp hr hl

theorem isProtocolOpcode_iff (op : Byte) : isProtocolOpcode op = true ↔ 1 ≤ op.toNat ∧ op.toNat ≤ 0x13 := by
  simp [isProtocolOpcode]

/-- A code with too few operand bytes is refused as one with too many: by the code and `LIFE` (U6, log entry 14). -/
theorem refusalOf_malformed (life : Life) {e : DecodeError} {op : Byte} (he : e = .truncated op ∨ e = .overlong op) :
    refusalOf life e = if 1 ≤ op.toNat ∧ op.toNat ≤ 0x13 then (if life = .released then .released else .badOperand)
      else .unknownOp := by
  have hcode : refusalOf life e = if isProtocolOpcode op = true then
      (if life = .released then .released else .badOperand) else .unknownOp := by
    rcases he with rfl | rfl <;> cases life <;> rfl
  exact hcode.trans (if_congr (isProtocolOpcode_iff op) rfl rfl)

/-- Settles O5: the step refuses what the decoder rejects, for the reason `refusalOf` gives. -/
theorem malformedStringsRefused : Obligations.MalformedStringsRefused := by
  refine ⟨fun s o rest op hmal hr hp => ?_, fun s rest hr hp => step_idle_reject s [] rest .noOpcode hr hp rfl⟩
  obtain ⟨e, hd, he⟩ : ∃ e, decode o = .reject e ∧ (e = .truncated op ∨ e = .overlong op) := by
    rcases hmal with hd | hd
    · exact ⟨_, hd, .inl rfl⟩
    · exact ⟨_, hd, .inr rfl⟩
  rw [step_idle_reject s o rest e hr hp hd, refusalOf_malformed s.life he]
  rfl

/-! ## A busy block holds what it is offered (R283) -/

/-- No operation, of either kind, starts while another runs. -/
theorem exec_busy (i : Instr) {s : State} (hb : s.busy = true) : exec i s = .next (s.enqueue (encode i)) := by
  obtain ⟨op, scr, acc, hr⟩ := (State.busy_eq_true s).1 hb
  rcases exec_cases i s with ⟨-, he⟩ | ⟨-, v, he⟩
  · exact he.trans (protocolOp_busy i op _ s scr acc hr)
  · exact he.trans (codecOp_busy i op v s scr acc hr)

/-- Offers alone leave the operation held; they wait in the order they came. -/
theorem drive_offers (m : MicroOp) (offers : List (List Byte)) (s : State) :
    drive m (offers.map Input.offer) s = .next { s with hostPort := s.hostPort ++ offers, inputs := [] } := by
  induction offers generalizing s with
  | nil => simp
  | cons o os ih =>
    calc drive m ((o :: os).map Input.offer) s = drive m (os.map Input.offer) (s.enqueue o) := rfl
      _ = .next { s.enqueue o with hostPort := (s.enqueue o).hostPort ++ os, inputs := [] } := ih (s.enqueue o)
      _ = .next { s with hostPort := s.hostPort ++ o :: os, inputs := [] } := by simp [State.enqueue]

/-- Settles O9: exec is such an offer, and the step drives the running operation with the offers. -/
theorem busyBlockHoldsEveryOffer : Obligations.BusyBlockHoldsEveryOffer := by
  refine ⟨fun s i hb => exec_busy i hb, fun s offers hb hin => ?_⟩
  obtain ⟨op, scr, acc, hr⟩ := (State.busy_eq_true s).1 hb
  rw [step_running s op scr acc hr, hin]
  exact drive_offers _ offers s

/-! ## A request that is never answered (R284, R285) -/

theorem step_held {s : State} (hb : s.busy = true) (hin : s.inputs = []) : step s = .next s := by
  obtain ⟨op, scr, acc, hr⟩ := (State.busy_eq_true s).1 hb
  rw [step_running s op scr acc hr, hin, drive_nil, ← hin]

/-- Settles O10, by induction on the number of steps. -/
theorem heldBlockStaysHeld : Obligations.HeldBlockStaysHeld := by
  intro s n hb hin
  induction n with
  | zero => rfl
  | succ n ih => simp only [runSteps, step_held hb hin, ih]

/-! ## The same operation runs until it ends (`10_state.md` R25) -/

/-- Operation `i` runs. -/
def Runs (i : Instr) (s : State) : Prop := ∃ scr acc, s.run = .running i scr acc

theorem not_busy_of_idle {s : State} (hr : s.run = .idle) : ¬ s.busy = true :=
  Bool.eq_false_iff.1 ((State.busy_eq_false s).2 hr)

theorem Runs.loadScr {i : Instr} {s : State} (h : Runs i s) (read : Option (List Byte)) : Runs i (s.loadScr read) := by
  obtain ⟨scr, acc, hr⟩ := h
  cases read with
  | none => exact ⟨scr, acc, s.loadScr_none ▸ hr⟩
  | some bs => exact ⟨bs, acc, s.loadScr_run bs i scr acc hr⟩

theorem Runs.issueAt {i : Instr} {s : State} (h : Runs i s) (m : MicroOp) (k : Nat) : Runs i (issueAt m k s) := by
  obtain ⟨-, -, -, -, -, hrun, -⟩ := issueAt_frame m k s
  simpa only [Runs, hrun] using h

/-- A transport error ends every operation, `INITIALIZE` at the part ID too (`41_bus_primitives.md` R166,
`43_initialize.md` R236 (a)). -/
theorem onErr_ends (i : Instr) (k : Nat) (t : BusErr) (s : State) :
    ((microOf i).onErr k t s).Meets (fun _ => False) (fun s1 => s1.run = .idle) := by
  rcases microOf_cases i with rfl | rfl | ⟨-, hm⟩ | ⟨-, hm⟩
  · change (initOnErr k t s).Meets _ _
    unfold initOnErr; split <;> rfl
  · rfl
  · rw [hm]; rfl
  · rw [hm.onErr]; rfl

theorem Progress.Meets.imp {N N' E : State → Prop} {p : Progress} (h : p.Meets N E) (hN : ∀ s, N s → N' s) :
    p.Meets N' E := by
  cases p with
  | next s => exact hN s h
  | done s => exact h

/-- A turn leaves the operation running, or ends it. -/
theorem takeTurn_runs {i : Instr} {s : State} (h : Runs i s) (a : Answer) :
    (∀ s', takeTurn (microOf i) a s = .goesOn s' → Runs i s') ∧
    (∀ s', takeTurn (microOf i) a s = .ended s' → s'.run = .idle) := by
  obtain ⟨hgo, hend⟩ := takeTurn_leads (Runs i) (fun s1 => s1.run = .idle) (microOf i) a s
    (fun read => by
      obtain ⟨scr, acc, hr⟩ := Runs.loadScr (s := s.takeAnswer a) h read
      exact (after_run i s.seq hr).imp fun _ hrun => ⟨scr, hrun⟩)
    (fun t => (onErr_ends i s.seq t (s.takeAnswer a)).imp fun _ hfalse => hfalse.elim)
  refine ⟨fun s' ht => ?_, hend⟩
  rcases hgo s' ht with rfl | ⟨s1, hs1, rfl⟩
  · exact h
  · exact hs1.issueAt _ _

/-! ## What a drive that is held has left to do (R284) -/

/-- A drive that leaves an operation running has taken all its inputs, and goes on with the same operation. -/
theorem drive_append {i : Instr} {xs : List Input} {s s1 : State} (h : Runs i s)
    (hd : drive (microOf i) xs s = .next s1) (hb : s1.busy = true) (ys : List Input) :
    Runs i s1 ∧ drive (microOf i) (xs ++ ys) s = drive (microOf i) ys s1 := by
  induction xs generalizing s with
  | nil =>
    obtain rfl := Host.Outcome.next.inj hd
    exact ⟨h, ((microOf_ignoresInputs i).drive ys s []).symm⟩
  | cons x xs ih =>
    cases x with
    | offer o => exact ih (s := s.enqueue o) h hd
    | reset => exact absurd hb (not_busy_of_idle (Host.Outcome.next.inj hd ▸ rfl))
    | answer a =>
      obtain ⟨hgo, hend⟩ := takeTurn_runs h a
      cases ht : takeTurn (microOf i) a s with
      | goesOn s2 =>
        obtain ⟨hruns, heq⟩ := ih (hgo s2 ht) (drive_goesOn _ a xs s s2 ht ▸ hd)
        exact ⟨hruns, (drive_goesOn _ a (xs ++ ys) s s2 ht).trans heq⟩
      | ended s2 =>
        rw [drive_ended _ a xs s s2 ht, Host.Outcome.next.injEq] at hd
        exact absurd hb (not_busy_of_idle (hd ▸ hend s2 ht))
      | broken => simp [drive_broken _ a xs s ht] at hd

/-- So the step of the held state, with the rest of the inputs, ends where the drive with all of them does. -/
theorem drive_append_eq_step {i : Instr} {xs : List Input} {s s1 : State} (h : Runs i s)
    (hd : drive (microOf i) xs s = .next s1) (hb : s1.busy = true) (ys : List Input) :
    drive (microOf i) (xs ++ ys) s = step (s1.withInputs ys) := by
  obtain ⟨⟨scr, acc, hr⟩, heq⟩ := drive_append h hd hb ys
  exact heq.trans (step_running_withInputs hr ys).symm

/-- Whatever the inputs, an idle block drives an operation it accepts from its first request. -/
theorem Accepts.exec_withInputs {i : Instr} {s : State} (hacc : Accepts i s) (hr : s.run = .idle) {q : MicroReq}
    {qs : List MicroReq} (ht : (microOf i).table = q :: qs) (xs : List Input) : exec i (s.withInputs xs) =
      drive (microOf i) xs ((accepted i s).issue (toRequest s.devAddr q)) := by
  rw [exec_of_accepts (s := s.withInputs xs) (hacc.of_life_eq rfl) hr ht, accepted_withInputs]
  exact (microOf_ignoresInputs i).drive xs ((accepted i s).issue (toRequest s.devAddr q)) xs

/-- An operation that is still running when exec is done was accepted, so any inputs drive it from one state. -/
theorem exec_held_drives {i : Instr} {s s1 : State} {xs : List Input} (hr : s.run = .idle)
    (hx : exec i (s.withInputs xs) = .next s1) (hb : s1.busy = true) :
    ∃ s0, Runs i s0 ∧ ∀ zs, exec i (s.withInputs zs) = drive (microOf i) zs s0 := by
  rcases exec_idle_cases i (s.withInputs xs) hr with ⟨r, he⟩ | ⟨hacc, he⟩
  · obtain rfl := Host.Outcome.next.inj (he.symm.trans hx)
    exact absurd hb (not_busy_of_idle hr)
  · cases ht : (microOf i).table with
    | nil =>
      obtain rfl := eq_release_of_table_nil hacc.protocol ht
      obtain rfl := Host.Outcome.next.inj (he.symm.trans hx)
      exact absurd hb (not_busy_of_idle rfl)
    | cons q qs =>
      exact ⟨(accepted i s).issue (toRequest s.devAddr q), ⟨_, _, accepted_run i s⟩,
        (hacc.of_life_eq (s' := s) rfl).exec_withInputs hr ht⟩

/-- An operation that is accepted and then held for want of input goes on with the rest of it. -/
theorem exec_append {i : Instr} {s s1 : State} {xs : List Input} (hr : s.run = .idle)
    (hx : exec i (s.withInputs xs) = .next s1) (hb : s1.busy = true) (ys : List Input) :
    exec i (s.withInputs (xs ++ ys)) = step (s1.withInputs ys) := by
  obtain ⟨s0, h0, hdrives⟩ := exec_held_drives hr hx hb
  exact (hdrives (xs ++ ys)).trans (drive_append_eq_step h0 ((hdrives xs).symm.trans hx) hb ys)

/-- A step that leaves an idle block busy has taken an operation off the host port. -/
theorem step_idle_busy {s s1 : State} (hr : s.run = .idle) (hx : step s = .next s1) (hb : s1.busy = true) :
    ∃ i o offers, s.hostPort = o :: offers ∧ decode o = .instr i := by
  rcases step_idle_cases s hr with ⟨rest, -, h1⟩ | ⟨s2, h1, hside⟩ | ⟨i, -, hw, -⟩
  · obtain rfl := Host.Outcome.next.inj (h1.symm.trans hx)
    exact absurd hb (not_busy_of_idle rfl)
  · obtain rfl := Host.Outcome.next.inj (h1.symm.trans hx)
    exact absurd hb (not_busy_of_idle (hside.run.trans hr))
  · obtain ⟨-, o, offers, hp, hd⟩ := hw.resolve_left (by simp [hr])
    exact ⟨i, o, offers, hp, hd⟩

/-- A step that ends in a held operation goes on with the rest of the inputs: it drives the running operation, or execs
the oldest offer. -/
theorem step_append {s s1 : State} {xs : List Input} (hx : step (s.withInputs xs) = .next s1) (hb : s1.busy = true)
    (ys : List Input) : step (s.withInputs (xs ++ ys)) = step (s1.withInputs ys) := by
  cases hr : s.run with
  | running op scr acc =>
    have hdrives := step_running_withInputs hr
    exact (hdrives (xs ++ ys)).trans (drive_append_eq_step ⟨scr, acc, hr⟩ ((hdrives xs).symm.trans hx) hb ys)
  | idle =>
    obtain ⟨i, o, offers, hp, hd⟩ := step_idle_busy (s := s.withInputs xs) hr hx hb
    have hexec (zs : List Input) : step (s.withInputs zs) = exec i (State.withInputs { s with hostPort := offers } zs) :=
      step_idle_operation (s.withInputs zs) o offers i hr hp hd
    exact (hexec (xs ++ ys)).trans
      (exec_append (s := { s with hostPort := offers }) hr ((hexec xs).symm.trans hx) hb ys)

/-- Settles O11: the inputs an operation is driven with can be split wherever it is held. -/
theorem answersMayComeLater : Obligations.AnswersMayComeLater :=
  ⟨fun _ _ _ ys hx hb => step_append hx hb ys, fun _ _ _ _ ys hr hx hb => exec_append hr hx hb ys⟩

end Sys2Proof.Machine
